-- ==== Sys2Proof/Word.lean ====
section
/-! DEFINITION. The widths of the machine (00_scope.md R5, R8, R9; 10_state.md R20, R27).
All values are unsigned; a `BitVec w` holds what the spec calls a w-bit value. -/

namespace Sys2Proof

/-- A memory cell, a general register, a timer, the literal `nn` (10_state.md R21, R29, R32). -/
abbrev Byte := BitVec 8

/-- An instruction word, `I`, `pc`, a stack slot (10_state.md R23, R24, R28; 30_encoding.md R90). -/
abbrev Word := BitVec 16

/-- One hexadecimal digit of the instruction word, and the stack pointer (30_encoding.md R91, 10_state.md R27). -/
abbrev Nibble := BitVec 4

/-- The 12-bit address literal `nnn` (30_encoding.md R91). -/
abbrev Addr12 := BitVec 12

end Sys2Proof
end

