-- ==== Sys2Proof/Syntax.lean ====
section
/-! DEFINITION. The 34 instructions, one constructor for each row of spec/opcode_table.json, in the table's order
(30_encoding.md R95), with the operand fields of R91.

`d` is a don't-care digit of the word (R100) and `y` of `shr` and `shl` a field that is decoded but not used (R148,
R150). They are carried so that an instruction names every bit of its word; no meaning reads them (log 12). -/

namespace Sys2Proof

inductive Instr where
  /-- 00E0 clear; `d` is bits 11:8 -/
  | cls (d : Nibble)
  /-- 00EE return; `d` is bits 11:8 -/
  | ret (d : Nibble)
  /-- 1nnn jump -/
  | jp (nnn : Addr12)
  /-- 2nnn call -/
  | call (nnn : Addr12)
  /-- 3xnn skip if equal to immediate -/
  | sei (x : Nibble) (nn : Byte)
  /-- 4xnn skip if not equal to immediate -/
  | snei (x : Nibble) (nn : Byte)
  /-- 5xy0 skip if registers equal; `d` is bits 3:0 -/
  | ser (x y d : Nibble)
  /-- 6xnn load immediate -/
  | ldi (x : Nibble) (nn : Byte)
  /-- 7xnn add immediate -/
  | addi (x : Nibble) (nn : Byte)
  /-- 8xy0 copy -/
  | mov (x y : Nibble)
  /-- 8xy1 OR -/
  | or (x y : Nibble)
  /-- 8xy2 AND -/
  | and (x y : Nibble)
  /-- 8xy3 XOR -/
  | xor (x y : Nibble)
  /-- 8xy4 add with carry out -/
  | add (x y : Nibble)
  /-- 8xy5 subtract Vx - Vy -/
  | sub (x y : Nibble)
  /-- 8xy6 shift right; `y` is not used -/
  | shr (x y : Nibble)
  /-- 8xy7 subtract Vy - Vx -/
  | subn (x y : Nibble)
  /-- 8xyE shift left; `y` is not used -/
  | shl (x y : Nibble)
  /-- 9xy0 skip if registers not equal; `d` is bits 3:0 -/
  | sner (x y d : Nibble)
  /-- Annn load the address register -/
  | lda (nnn : Addr12)
  /-- Bnnn jump to V0 + nnn -/
  | jpv0 (nnn : Addr12)
  /-- Cxnn random byte AND nn -/
  | rnd (x : Nibble) (nn : Byte)
  /-- Dxyn draw sprite -/
  | drw (x y n : Nibble)
  /-- Ex9E skip if key held -/
  | skp (x : Nibble)
  /-- ExA1 skip if key not held -/
  | sknp (x : Nibble)
  /-- Fx07 load from the delay timer -/
  | lddt (x : Nibble)
  /-- Fx0A wait for a key -/
  | wkey (x : Nibble)
  /-- Fx15 store into the delay timer -/
  | stdt (x : Nibble)
  /-- Fx18 store into the sound timer -/
  | stst (x : Nibble)
  /-- Fx1E add to the address register -/
  | adda (x : Nibble)
  /-- Fx29 address of a font glyph -/
  | font (x : Nibble)
  /-- Fx33 decimal digits -/
  | bcd (x : Nibble)
  /-- Fx55 store V0..Vx -/
  | stm (x : Nibble)
  /-- Fx65 load V0..Vx -/
  | ldm (x : Nibble)
  deriving DecidableEq, Repr

/-- The mnemonic of 30_encoding.md R104, as spec/opcode_table.json spells it. -/
def Instr.mnemonic : Instr → String
  | .cls _ => "CLS"
  | .ret _ => "RET"
  | .jp _ => "JP"
  | .call _ => "CALL"
  | .sei _ _ => "SEI"
  | .snei _ _ => "SNEI"
  | .ser _ _ _ => "SER"
  | .ldi _ _ => "LDI"
  | .addi _ _ => "ADDI"
  | .mov _ _ => "MOV"
  | .or _ _ => "OR"
  | .and _ _ => "AND"
  | .xor _ _ => "XOR"
  | .add _ _ => "ADD"
  | .sub _ _ => "SUB"
  | .shr _ _ => "SHR"
  | .subn _ _ => "SUBN"
  | .shl _ _ => "SHL"
  | .sner _ _ _ => "SNER"
  | .lda _ => "LDA"
  | .jpv0 _ => "JPV0"
  | .rnd _ _ => "RND"
  | .drw _ _ _ => "DRW"
  | .skp _ => "SKP"
  | .sknp _ => "SKNP"
  | .lddt _ => "LDDT"
  | .wkey _ => "WKEY"
  | .stdt _ => "STDT"
  | .stst _ => "STST"
  | .adda _ => "ADDA"
  | .font _ => "FONT"
  | .bcd _ => "BCD"
  | .stm _ => "STM"
  | .ldm _ => "LDM"

end Sys2Proof
end

