-- ==== Sys2Proof/WellFormed.lean ====
section
/-! DEFINITION. The well-formed instructions: the forms an assembler emits (30_encoding.md R100, R104).

Every operand is within its field by its type, so the one thing left to check is the digits that no meaning reads:
an assembler emits 0 for the don't-care digit of CLS, RET, SER and SNER (R100) and for the y of SHR and SHL (R148,
R150). The other forms are legal words too and execute exactly as the well-formed one (R100): nothing in the
machine asks for well-formedness (log 12). -/

namespace Sys2Proof

/-- The digit that no meaning reads is 0. -/
def Instr.wellFormed : Instr → Bool
  | .cls d | .ret d => d == 0
  | .ser _ _ d | .sner _ _ d => d == 0
  | .shr _ y | .shl _ y => y == 0
  | .jp _ | .call _ | .lda _ | .jpv0 _ => true
  | .sei _ _ | .snei _ _ | .ldi _ _ | .addi _ _ | .rnd _ _ => true
  | .mov _ _ | .or _ _ | .and _ _ | .xor _ _ | .add _ _ | .sub _ _ | .subn _ _ => true
  | .drw _ _ _ => true
  | .skp _ | .sknp _ | .lddt _ | .wkey _ | .stdt _ | .stst _ => true
  | .adda _ | .font _ | .bcd _ | .stm _ | .ldm _ => true

/-- The well-formed instruction that an instruction executes as: its unused digit is put to 0 (R100, R148, R150). -/
def Instr.canonical : Instr → Instr
  | .cls _ => .cls 0
  | .ret _ => .ret 0
  | .ser x y _ => .ser x y 0
  | .sner x y _ => .sner x y 0
  | .shr x _ => .shr x 0
  | .shl x _ => .shl x 0
  | .jp nnn => .jp nnn
  | .call nnn => .call nnn
  | .lda nnn => .lda nnn
  | .jpv0 nnn => .jpv0 nnn
  | .sei x nn => .sei x nn
  | .snei x nn => .snei x nn
  | .ldi x nn => .ldi x nn
  | .addi x nn => .addi x nn
  | .rnd x nn => .rnd x nn
  | .mov x y => .mov x y
  | .or x y => .or x y
  | .and x y => .and x y
  | .xor x y => .xor x y
  | .add x y => .add x y
  | .sub x y => .sub x y
  | .subn x y => .subn x y
  | .drw x y n => .drw x y n
  | .skp x => .skp x
  | .sknp x => .sknp x
  | .lddt x => .lddt x
  | .wkey x => .wkey x
  | .stdt x => .stdt x
  | .stst x => .stst x
  | .adda x => .adda x
  | .font x => .font x
  | .bcd x => .bcd x
  | .stm x => .stm x
  | .ldm x => .ldm x

end Sys2Proof
end

