-- ==== Sys2Proof/Decode.lean ====
section
/-! DEFINITION. The decoder of 30_encoding.md R94, total on any bytes, the opcode map of R95, and after them the
encoder. -/

namespace Sys2Proof

/-- The opcode family t, w[15:12] (R91). -/
def fieldT (w : Word) : Nibble := w.extractLsb' 12 4

/-- The field x, w[11:8] (R91). -/
def fieldX (w : Word) : Nibble := w.extractLsb' 8 4

/-- The field y, w[7:4] (R91). -/
def fieldY (w : Word) : Nibble := w.extractLsb' 4 4

/-- The field n, w[3:0] (R91). -/
def fieldN (w : Word) : Nibble := w.extractLsb' 0 4

/-- The literal nn, w[7:0] (R91). -/
def fieldNN (w : Word) : Byte := w.extractLsb' 0 8

/-- The address literal nnn, w[11:0] (R91). -/
def fieldNNN (w : Word) : Addr12 := w.extractLsb' 0 12

/-- Family 0x0: dispatch on nn (R94). -/
def decodeFamily0 (w : Word) : Option Instr :=
  if fieldNN w = 0xE0 then some (.cls (fieldX w))
  else if fieldNN w = 0xEE then some (.ret (fieldX w))
  else none

/-- Family 0x8: dispatch on n (R94). -/
def decodeFamily8 (w : Word) : Option Instr :=
  let x := fieldX w
  let y := fieldY w
  if fieldN w = 0x0 then some (.mov x y)
  else if fieldN w = 0x1 then some (.or x y)
  else if fieldN w = 0x2 then some (.and x y)
  else if fieldN w = 0x3 then some (.xor x y)
  else if fieldN w = 0x4 then some (.add x y)
  else if fieldN w = 0x5 then some (.sub x y)
  else if fieldN w = 0x6 then some (.shr x y)
  else if fieldN w = 0x7 then some (.subn x y)
  else if fieldN w = 0xE then some (.shl x y)
  else none

/-- Family 0xE: dispatch on nn (R94). -/
def decodeFamilyE (w : Word) : Option Instr :=
  if fieldNN w = 0x9E then some (.skp (fieldX w))
  else if fieldNN w = 0xA1 then some (.sknp (fieldX w))
  else none

/-- Family 0xF: dispatch on nn (R94). -/
def decodeFamilyF (w : Word) : Option Instr :=
  let x := fieldX w
  if fieldNN w = 0x07 then some (.lddt x)
  else if fieldNN w = 0x0A then some (.wkey x)
  else if fieldNN w = 0x15 then some (.stdt x)
  else if fieldNN w = 0x18 then some (.stst x)
  else if fieldNN w = 0x1E then some (.adda x)
  else if fieldNN w = 0x29 then some (.font x)
  else if fieldNN w = 0x33 then some (.bcd x)
  else if fieldNN w = 0x55 then some (.stm x)
  else if fieldNN w = 0x65 then some (.ldm x)
  else none

/-- `decode(w)` of R94: the dispatch on the top nibble, then within the families 0x0, 0x8, 0xE, 0xF. -/
def decodeWord (w : Word) : Option Instr :=
  if fieldT w = 0x0 then decodeFamily0 w
  else if fieldT w = 0x1 then some (.jp (fieldNNN w))
  else if fieldT w = 0x2 then some (.call (fieldNNN w))
  else if fieldT w = 0x3 then some (.sei (fieldX w) (fieldNN w))
  else if fieldT w = 0x4 then some (.snei (fieldX w) (fieldNN w))
  else if fieldT w = 0x5 then some (.ser (fieldX w) (fieldY w) (fieldN w))
  else if fieldT w = 0x6 then some (.ldi (fieldX w) (fieldNN w))
  else if fieldT w = 0x7 then some (.addi (fieldX w) (fieldNN w))
  else if fieldT w = 0x8 then decodeFamily8 w
  else if fieldT w = 0x9 then some (.sner (fieldX w) (fieldY w) (fieldN w))
  else if fieldT w = 0xA then some (.lda (fieldNNN w))
  else if fieldT w = 0xB then some (.jpv0 (fieldNNN w))
  else if fieldT w = 0xC then some (.rnd (fieldX w) (fieldNN w))
  else if fieldT w = 0xD then some (.drw (fieldX w) (fieldY w) (fieldN w))
  else if fieldT w = 0xE then decodeFamilyE w
  else decodeFamilyF w

/-- Why a byte list is not an instruction. -/
inductive DecodeError where
  /-- the word is none of the 34 instructions (R101, R103) -/
  | illegalOpcode (w : Word)
  /-- fewer than the two bytes of an instruction word (R90) -/
  | truncated
  deriving DecidableEq, Repr

/-- The word of two bytes, the byte at the lower address high (20_memory.md R64). -/
def wordOfBytes (hi lo : Byte) : Word := BitVec.ofNat 16 (hi.toNat * 256 + lo.toNat)

/-- The two bytes of a word as they lie in memory (20_memory.md R64). -/
def bytesOfWord (w : Word) : List Byte := [w.extractLsb' 8 8, w.extractLsb' 0 8]

/-- The decoder on any bytes: the instruction and the bytes after it, or the rejection by name. -/
def decode : List Byte → Except DecodeError (Instr × List Byte)
  | hi :: lo :: rest =>
    match decodeWord (wordOfBytes hi lo) with
    | some i => .ok (i, rest)
    | none => .error (.illegalOpcode (wordOfBytes hi lo))
  | _ => .error .truncated

/-- A row of the opcode map R95: a word is the instruction exactly when `w &&& mask = value`. -/
structure OpcodeRow where
  mnemonic : String
  mask : Word
  value : Word
  deriving DecidableEq, Repr

/-- R95, first half, in the document's order. -/
def opcodeRowsLow : List OpcodeRow :=
  [⟨"CLS", 0xF0FF, 0x00E0⟩, ⟨"RET", 0xF0FF, 0x00EE⟩, ⟨"JP", 0xF000, 0x1000⟩, ⟨"CALL", 0xF000, 0x2000⟩,
   ⟨"SEI", 0xF000, 0x3000⟩, ⟨"SNEI", 0xF000, 0x4000⟩, ⟨"SER", 0xF000, 0x5000⟩, ⟨"LDI", 0xF000, 0x6000⟩,
   ⟨"ADDI", 0xF000, 0x7000⟩, ⟨"MOV", 0xF00F, 0x8000⟩, ⟨"OR", 0xF00F, 0x8001⟩, ⟨"AND", 0xF00F, 0x8002⟩,
   ⟨"XOR", 0xF00F, 0x8003⟩, ⟨"ADD", 0xF00F, 0x8004⟩, ⟨"SUB", 0xF00F, 0x8005⟩, ⟨"SHR", 0xF00F, 0x8006⟩,
   ⟨"SUBN", 0xF00F, 0x8007⟩, ⟨"SHL", 0xF00F, 0x800E⟩]

/-- R95, second half. -/
def opcodeRowsHigh : List OpcodeRow :=
  [⟨"SNER", 0xF000, 0x9000⟩, ⟨"LDA", 0xF000, 0xA000⟩, ⟨"JPV0", 0xF000, 0xB000⟩, ⟨"RND", 0xF000, 0xC000⟩,
   ⟨"DRW", 0xF000, 0xD000⟩, ⟨"SKP", 0xF0FF, 0xE09E⟩, ⟨"SKNP", 0xF0FF, 0xE0A1⟩, ⟨"LDDT", 0xF0FF, 0xF007⟩,
   ⟨"WKEY", 0xF0FF, 0xF00A⟩, ⟨"STDT", 0xF0FF, 0xF015⟩, ⟨"STST", 0xF0FF, 0xF018⟩, ⟨"ADDA", 0xF0FF, 0xF01E⟩,
   ⟨"FONT", 0xF0FF, 0xF029⟩, ⟨"BCD", 0xF0FF, 0xF033⟩, ⟨"STM", 0xF0FF, 0xF055⟩, ⟨"LDM", 0xF0FF, 0xF065⟩]

/-- The opcode map of R95. The decoder does not read it: statements hold the two against each other. -/
def opcodeRows : List OpcodeRow := opcodeRowsLow ++ opcodeRowsHigh

/-- The word of four digits (formats XY, XYN, X and Z of R92). -/
def wordOfDigits (t x y n : Nibble) : Word :=
  BitVec.ofNat 16 (t.toNat * 4096 + x.toNat * 256 + y.toNat * 16 + n.toNat)

/-- The word of format XI (R92), and of a register with a sub-opcode byte (format X). -/
def wordOfByteForm (t x : Nibble) (nn : Byte) : Word :=
  BitVec.ofNat 16 (t.toNat * 4096 + x.toNat * 256 + nn.toNat)

/-- The word of format A (R92). -/
def wordOfAddrForm (t : Nibble) (nnn : Addr12) : Word :=
  BitVec.ofNat 16 (t.toNat * 4096 + nnn.toNat)

/-- The word of an instruction, from the patterns of R95. -/
def encode : Instr → Word
  | .cls d => wordOfByteForm 0x0 d 0xE0
  | .ret d => wordOfByteForm 0x0 d 0xEE
  | .jp nnn => wordOfAddrForm 0x1 nnn
  | .call nnn => wordOfAddrForm 0x2 nnn
  | .sei x nn => wordOfByteForm 0x3 x nn
  | .snei x nn => wordOfByteForm 0x4 x nn
  | .ser x y d => wordOfDigits 0x5 x y d
  | .ldi x nn => wordOfByteForm 0x6 x nn
  | .addi x nn => wordOfByteForm 0x7 x nn
  | .mov x y => wordOfDigits 0x8 x y 0x0
  | .or x y => wordOfDigits 0x8 x y 0x1
  | .and x y => wordOfDigits 0x8 x y 0x2
  | .xor x y => wordOfDigits 0x8 x y 0x3
  | .add x y => wordOfDigits 0x8 x y 0x4
  | .sub x y => wordOfDigits 0x8 x y 0x5
  | .shr x y => wordOfDigits 0x8 x y 0x6
  | .subn x y => wordOfDigits 0x8 x y 0x7
  | .shl x y => wordOfDigits 0x8 x y 0xE
  | .sner x y d => wordOfDigits 0x9 x y d
  | .lda nnn => wordOfAddrForm 0xA nnn
  | .jpv0 nnn => wordOfAddrForm 0xB nnn
  | .rnd x nn => wordOfByteForm 0xC x nn
  | .drw x y n => wordOfDigits 0xD x y n
  | .skp x => wordOfByteForm 0xE x 0x9E
  | .sknp x => wordOfByteForm 0xE x 0xA1
  | .lddt x => wordOfByteForm 0xF x 0x07
  | .wkey x => wordOfByteForm 0xF x 0x0A
  | .stdt x => wordOfByteForm 0xF x 0x15
  | .stst x => wordOfByteForm 0xF x 0x18
  | .adda x => wordOfByteForm 0xF x 0x1E
  | .font x => wordOfByteForm 0xF x 0x29
  | .bcd x => wordOfByteForm 0xF x 0x33
  | .stm x => wordOfByteForm 0xF x 0x55
  | .ldm x => wordOfByteForm 0xF x 0x65

/-- The bytes of an instruction as they lie in memory. -/
def encodeBytes (i : Instr) : List Byte := bytesOfWord (encode i)

/-- The instruction word whose low `nbits` bits are those of `w` and whose other bits are 0. -/
def tableWord (nbits w : Nat) : Word := BitVec.ofNat 16 (w % 2 ^ nbits)

/-- The instruction the decoder reads from the table's word, laid out as the hardware stores it. -/
def decodeTableWord (nbits w : Nat) : Option Instr :=
  match decode (bytesOfWord (tableWord nbits w)) with
  | .ok (i, _) => some i
  | .error _ => none

end Sys2Proof
end

