-- ==== Sys2Proof/Config.lean ====
section
/-! DEFINITION. The parameters of the block as named constants (00_scope.md R5) and the free values.

Every row of R5 that has a value is a constant here; `FONT` is `Config.font` in Machine/Font.lean, and the instructions
per tick, which R5 leaves open, are the free value `freeTicks`. The quirk rows that are a behaviour and not a value
have one definition each: shift source `execShr` and `execShl`; logic operations and VF `execOr`, `execAnd`,
`execXor`; VF write order `State.setRegFlag`; sprite at the edge `State.spriteCol`, `State.spriteRow` and
`Canvas.drawBit`; stack overflow and underflow `State.pushPc` and `State.popPc`; Fx1E `execAdda`; Fx0A
`State.lowestKey`; no wait for the display `execDrw`. -/

namespace Sys2Proof.Config

/-- `MEM_SIZE`: the addresses are 0 to 4095 (20_memory.md R60). -/
abbrev memSize : Nat := 4096

/-- `NREG`: the general registers V0 to VF (10_state.md R21). -/
@[simp] abbrev nReg : Nat := 16

/-- `REG_WIDTH` (10_state.md R21). -/
@[simp] abbrev regWidth : Nat := 8

/-- `I_WIDTH` (10_state.md R23). -/
@[simp] abbrev iWidth : Nat := 16

/-- `PC_WIDTH` (10_state.md R24). -/
@[simp] abbrev pcWidth : Nat := 16

/-- `STACK_DEPTH`: the slots of the call stack (10_state.md R28). -/
@[simp] abbrev stackDepth : Nat := 16

/-- The width of a stack slot, in the row `STACK_DEPTH` of R5 (10_state.md R28). -/
@[simp] abbrev stackSlotWidth : Nat := 16

/-- The width of the stack pointer, in [0, 15], in the row `STACK_DEPTH` of R5 (10_state.md R27). -/
@[simp] abbrev spWidth : Nat := 4

/-- `TIMER_WIDTH`: the delay timer and the sound timer (10_state.md R29, R30). -/
@[simp] abbrev timerWidth : Nat := 8

/-- `FONT_BASE` (20_memory.md R61). -/
abbrev fontBase : Nat := 0x050

/-- `FONT_GLYPH_BYTES` (70_reset_and_hazards.md R243). -/
abbrev fontGlyphBytes : Nat := 5

/-- The font table's length: 16 glyphs (70_reset_and_hazards.md R243). -/
abbrev fontBytes : Nat := 80

/-- `PROG_BASE`, also the entry point (20_memory.md R61, 70_reset_and_hazards.md R241). -/
abbrev progBase : Nat := 0x200

/-- `PROG_MAX`: the longest program image (70_reset_and_hazards.md R242). -/
abbrev progMax : Nat := 3584

/-- `DISP_W` (10_state.md R31). -/
abbrev dispW : Nat := 64

/-- `DISP_H` (10_state.md R31). -/
abbrev dispH : Nat := 32

/-- `NKEYS` (60_exceptions.md R216). -/
abbrev nKeys : Nat := 16

/-- `INSN_BYTES` (30_encoding.md R90). -/
abbrev insnBytes : Nat := 2

/-- `TICK_HZ`: the host raises this many ticks in a second; no rule depends on it (60_exceptions.md R213). -/
abbrev tickHz : Nat := 60

/-- `BORROW_FLAG_SET_ON_NO_BORROW`: VF is 1 when a subtraction does not borrow (93_implementation_defined.md U8). -/
abbrev borrowFlagSetOnNoBorrow : Bool := true

/-- `MEMOP_INCLUSIVE`: STM and LDM move V0 to Vx, Vx included (93_implementation_defined.md U7). -/
abbrev memopInclusive : Bool := true

/-- `MEMOP_I_ADVANCE`: what STM and LDM add to I (93_implementation_defined.md U7). -/
abbrev memopIAdvance : Word := 0

/-- The base register of Bnnn (40_flow.md R123). -/
abbrev indexedJumpBase : Nibble := 0

/-- FREE VALUE (log 4): the ticks that fall before an instruction cycle whose host input record is not given, one
for each value of `State.clock` (60_exceptions.md R214; the open INSNS_PER_TICK, 92_eei_decisions.md D23). -/
opaque freeTicks : Nat → Nat

/-- FREE VALUE (log 3): the key snapshot of such a cycle (10_state.md R35; 93_implementation_defined.md U15). -/
opaque freeKeys : Nat → Word

/-- FREE VALUE (log 3): the random input of such a cycle (10_state.md R36; 93_implementation_defined.md U13). -/
opaque freeRnd : Nat → Byte

end Sys2Proof.Config
end

