-- ==== Sys2Proof/Machine/State.lean ====
section
/-! DEFINITION. The state of the machine: all of 10_state.md R20, plain data, and the reset state R40. -/

namespace Sys2Proof.Machine

/-- The cells of memory that differ from their reset contents, addresses strictly rising (log 13). What an unlisted
address reads as is `memDefault` of Machine/Memory.lean. -/
abbrev Memory := List Host.Cell

/-- The display buffer: 32 rows, row 0 first, each of 64 pixels, column 0 first (10_state.md R31, log 16). -/
abbrev Display := Vector (Vector Bool Config.dispW) Config.dispH

/-- `RUN` (10_state.md R33). -/
inductive RunState where
  | running
  | halted
  deriving DecidableEq, Repr

/-- `FAULT.cause` (60_exceptions.md R204). -/
inductive FaultCause where
  /-- code 0: the value while RUNNING -/
  | none
  /-- code 1: decode of a fetched word (R201) -/
  | illegalOpcode
  /-- code 2: a fetch or a data access outside 0 to 4095 (R202) -/
  | memoryAddressOutOfRange
  /-- code 3: reserved for the loader, never held (R203) -/
  | romTooLarge
  deriving DecidableEq, Repr

/-- The FAULT record (10_state.md R33, 60_exceptions.md R204). -/
structure FaultRecord where
  cause : FaultCause
  info : Word
  fpc : Word
  deriving DecidableEq, Repr

/-- The FAULT record while RUNNING (60_exceptions.md R204). -/
def FaultRecord.clear : FaultRecord := { cause := .none, info := 0, fpc := 0 }

/-- What the host does at one instruction cycle: the ticks that fall just before it (60_exceptions.md R214), and the
values on the inputs `keys` and `rnd` during it (R216, R217). -/
structure HostInput where
  ticks : Nat
  keys : Word
  rnd : Byte
  deriving DecidableEq, Repr

/-- The state. `v` to `fault` are the spec's (10_state.md R20); the last four are the model's own. -/
structure State where
  /-- V0 to VF (R21) -/
  v : Vector (BitVec Config.regWidth) Config.nReg
  /-- the address register I (R23) -/
  i : BitVec Config.iWidth
  /-- the program counter (R24) -/
  pc : BitVec Config.pcWidth
  /-- the stack pointer (R27) -/
  sp : BitVec Config.spWidth
  /-- the call stack slots (R28) -/
  stack : Vector (BitVec Config.stackSlotWidth) Config.stackDepth
  /-- the delay timer (R29) -/
  dt : BitVec Config.timerWidth
  /-- the sound timer (R30) -/
  st : BitVec Config.timerWidth
  /-- the display buffer (R31) -/
  disp : Display
  /-- memory (R32) -/
  mem : Memory
  /-- RUN (R33) -/
  run : RunState
  /-- FAULT.cause, FAULT.info, FAULT.fpc (R33) -/
  fault : FaultRecord
  /-- the key snapshot of the current instruction cycle, an input and not the spec's state (R35; log 6) -/
  keys : Word
  /-- the random input of the current instruction cycle, an input and not the spec's state (R36; log 6) -/
  rnd : Byte
  /-- the host's coming input records, one a cycle; where there is none the record is free (R37; log 5) -/
  inputs : List HostInput
  /-- how many input records have been used: the argument of the free values (log 3) -/
  clock : Nat
  deriving DecidableEq, Repr

/-- What stops the machine from outside the instruction set. The core's own faults are no outcome of this type: they
are taken, the core entering HALTED (60_exceptions.md R207; log 7). -/
inductive Fault where
  /-- raised by the loader, in `State.hostReset`, on an image longer than 3584 bytes; the core is not started
  (60_exceptions.md R203, 70_reset_and_hazards.md R242). No step and no instruction raises it. Safe: the spec's own
  refusal, and nothing runs after it. -/
  | romTooLarge
  deriving DecidableEq, Repr

/-- Why an instruction has no meaning. -/
inductive Refusal where
  /-- raised by an arm of `exec` whose instruction has no meaning yet. Safe: the run stops. No arm raises it. -/
  | notModelled (mnemonic : String)
  deriving DecidableEq, Repr

/-- The three outcomes of a step. -/
abbrev Result := Host.Outcome State Fault Refusal

/-- The state after reset, no program loaded (10_state.md R40, 70_reset_and_hazards.md R240; log 1). The font is in
what unlisted memory reads as. `keys`, `rnd`, `inputs` and `clock` are the model's own (log 3, 5, 6). -/
def State.reset : State where
  v := Vector.replicate Config.nReg 0
  i := 0
  pc := BitVec.ofNat Config.pcWidth Config.progBase
  sp := 0
  stack := Vector.replicate Config.stackDepth 0
  dt := 0
  st := 0
  disp := Vector.replicate Config.dispH (Vector.replicate Config.dispW false)
  mem := []
  run := .running
  fault := .clear
  keys := 0
  rnd := 0
  inputs := []
  clock := 0

end Sys2Proof.Machine
end

