-- ==== Sys2Proof/Machine/Memory.lean ====
section
/-! DEFINITION. Memory: the reset contents, one byte read and written, the canonical form (20_memory.md R60 to R69). -/

namespace Sys2Proof.Machine

/-- What an address that is not listed reads as: the font at 0x050 to 0x09F, 0x00 elsewhere (10_state.md R40,
20_memory.md R61). -/
def memDefault (a : Nat) : Byte :=
  if Config.fontBase ≤ a ∧ a < Config.fontBase + Config.fontBytes then
    Config.font.getD (a - Config.fontBase) 0
  else 0

/-- The byte at an address. -/
def Memory.get : Memory → Nat → Byte
  | [], a => memDefault a
  | c :: m, a => if a = c.1 then c.2 else Memory.get m a

/-- Forget the cell of an address: it reads as `memDefault` again. -/
def Memory.erase (m : Memory) (a : Nat) : Memory := m.filter (fun c => c.1 != a)

/-- List a cell before the first cell of a higher address. -/
def Memory.insert : Memory → Nat → Byte → Memory
  | [], a, b => [(a, b)]
  | c :: m, a, b => if a < c.1 then (a, b) :: c :: m else c :: Memory.insert m a b

/-- Write one byte, keeping the canonical form: a cell that reads as its default is not listed. -/
def Memory.set (m : Memory) (a : Nat) (b : Byte) : Memory :=
  if b = memDefault a then Memory.erase m a else Memory.insert (Memory.erase m a) a b

/-- The `n` bytes from `a` up, lowest address first (00_scope.md R10). -/
def Memory.readBytes (m : Memory) (a n : Nat) : List Byte :=
  (List.range n).map (fun k => Memory.get m (a + k))

/-- Write the bytes from `a` up, lowest address first (00_scope.md R10). -/
def Memory.writeBytes : Memory → Nat → List Byte → Memory
  | m, _, [] => m
  | m, a, b :: bs => Memory.writeBytes (Memory.set m a b) (a + 1) bs

/-- A cell that may be listed: its address exists and its byte is not what the address reads as unlisted. -/
def Memory.cellOk (c : Host.Cell) : Bool := decide (c.1 < Config.memSize) && c.2 != memDefault c.1

/-- The addresses are strictly rising. -/
def Memory.rising : Memory → Bool
  | [] => true
  | [_] => true
  | c :: d :: m => decide (c.1 < d.1) && Memory.rising (d :: m)

/-- The canonical form of memory: equal memories are equal lists. -/
def Memory.wf (m : Memory) : Bool := Memory.rising m && m.all Memory.cellOk

/-- All `n` addresses from `a` up exist; no address at all always does (20_memory.md R62). -/
def inMemory (a n : Nat) : Bool := n == 0 || decide (a + n ≤ Config.memSize)

end Sys2Proof.Machine
end

