-- ==== Sys2Proof/Machine/Ops.lean ====
section
/-! DEFINITION. The named operations on the state that the meanings share: registers, pc, call stack, memory access
with its range check, fetch, and taking a fault. There is no return from a fault: HALTED is left only by reset
(60_exceptions.md R209; `State.hostReset` in Machine/HostPort.lean). -/

namespace Sys2Proof.Machine

/-! ### Registers -/

/-- `V[r]` (00_scope.md R10). -/
def State.reg (s : State) (r : Nibble) : Byte := s.v[r.toNat]'r.isLt

/-- `V[r] <- b` (00_scope.md R10). -/
def State.setReg (s : State) (r : Nibble) (b : Byte) : State := { s with v := s.v.set r.toNat b r.isLt }

/-- `V[0xF] <- 1` or `0` (10_state.md R22). -/
def State.setFlag (s : State) (flag : Byte) : State := s.setReg 0xF flag

/-- The result into `V[x]`, then the flag into `V[0xF]`: with x = 0xF the flag stays (42_alu.md R152). -/
def State.setRegFlag (s : State) (x : Nibble) (result flag : Byte) : State := (s.setReg x result).setFlag flag

/-- `[V[0], V[1], ..., V[n-1]]` (43_index_memory.md R164). -/
def State.firstRegs (s : State) (n : Nat) : List Byte := s.v.toList.take n

/-- `V[k] <- bs[k]` for each k that `bs` has (43_index_memory.md R165). -/
def State.setFirstRegs (s : State) (bs : List Byte) : State :=
  { s with v := s.v.mapIdx (fun k old => bs.getD k old) }

/-- `I <- v` (00_scope.md R10). -/
def State.setI (s : State) (v : Word) : State := { s with i := v }

/-- `DT <- v` (10_state.md R29). -/
def State.setDt (s : State) (v : Byte) : State := { s with dt := v }

/-- `ST <- v` (10_state.md R30). -/
def State.setSt (s : State) (v : Byte) : State := { s with st := v }

/-- `DISP` as a whole (10_state.md R31). -/
def State.setDisp (s : State) (d : Display) : State := { s with disp := d }

/-! ### Program counter and call stack -/

/-- `pc <- target` (00_scope.md R10). -/
def State.setPc (s : State) (target : Word) : State := { s with pc := target }

/-- The advance of every instruction cycle, `pc <- pc + 2` (10_state.md R25). -/
def State.advancePc (s : State) : State := s.setPc (s.pc + BitVec.ofNat 16 Config.insnBytes)

/-- A skip: 2 more when the condition holds, nothing when it does not (41_skip.md R134). -/
def State.skipIf (s : State) (cond : Bool) : State := if cond then s.advancePc else s

/-- Back to the instruction's own address (44_random_input_timer.md R174). -/
def State.rewindPc (s : State) : State := s.setPc (s.pc - BitVec.ofNat 16 Config.insnBytes)

/-- The address of the instruction that is executing: pc has been advanced past it (10_state.md R25). -/
def State.insnAddr (s : State) : Word := s.pc - BitVec.ofNat 16 Config.insnBytes

/-- `STACK[k]`. -/
def State.slot (s : State) (k : Nibble) : Word := s.stack[k.toNat]'k.isLt

/-- `STACK[SP] <- pc; SP <- (SP + 1) mod 16`: the 4-bit SP wraps (40_flow.md R122, 10_state.md R28). -/
def State.pushPc (s : State) : State := { s with stack := s.stack.set s.sp.toNat s.pc s.sp.isLt, sp := s.sp + 1 }

/-- `SP <- (SP - 1) mod 16; pc <- STACK[SP]`: the slot keeps its value (40_flow.md R120, 10_state.md R28). -/
def State.popPc (s : State) : State := { s with sp := s.sp - 1, pc := s.slot (s.sp - 1) }

/-! ### Memory access -/

/-- The byte at an address, for a reader of the state. -/
def State.byteAt (s : State) (a : Nat) : Byte := Memory.get s.mem a

/-- `MemRead(a, n)`: the whole range is checked first; `none` is `MemoryAddressOutOfRange` (20_memory.md R62). -/
def State.memRead (s : State) (a n : Nat) : Option (List Byte) :=
  if inMemory a n then some (Memory.readBytes s.mem a n) else none

/-- `MemWrite(a, n, bs)` with n the length of `bs`: the whole range is checked first; `none` is
`MemoryAddressOutOfRange`, and then nothing is written (20_memory.md R62, R71). -/
def State.memWrite (s : State) (a : Nat) (bs : List Byte) : Option State :=
  if inMemory a bs.length then some { s with mem := Memory.writeBytes s.mem a bs } else none

/-- The datum of `MemoryAddressOutOfRange`: the lowest address of the access that is outside the memory, when the
access starts at `a` (20_memory.md R62). -/
def outOfRangeInfo (a : Nat) : Word := BitVec.ofNat 16 (max a Config.memSize)

/-- After STM and LDM: `I` plus `MEMOP_I_ADVANCE`, which is 0, so `I` is unchanged (43_index_memory.md R166). -/
def State.afterMemop (s : State) : State := s.setI (s.i + Config.memopIAdvance)

/-! ### Taking a fault -/

/-- `raise`: the core enters HALTED and the FAULT record is written, and nothing else (60_exceptions.md R207, R208).
It is applied to the state the instruction began with, so every write of the instruction is discarded. -/
def State.raise (s : State) (cause : FaultCause) (info fpc : Word) : State :=
  { s with run := .halted, fault := { cause := cause, info := info, fpc := fpc } }

/-- `IllegalOpcode(w)`, raised after the advance of pc: `fpc` is the address of the word (60_exceptions.md R201). -/
def State.raiseIllegalOpcode (s : State) (w : Word) : State := s.raise .illegalOpcode w s.insnAddr

/-- `MemoryAddressOutOfRange` of a data access at `I`, raised after the advance of pc (60_exceptions.md R202). -/
def State.raiseDataFault (s : State) : State :=
  s.raise .memoryAddressOutOfRange (outOfRangeInfo s.i.toNat) s.insnAddr

/-- The outcome of a memory instruction: its result, or the data fault when its access was out of range. -/
def State.orDataFault (s : State) (result : Option State) : State := result.getD s.raiseDataFault

/-- `MemoryAddressOutOfRange` of a fetch, raised before the advance of pc (20_memory.md R70, 60_exceptions.md R202). -/
def State.raiseFetchFault (s : State) : State :=
  s.raise .memoryAddressOutOfRange (outOfRangeInfo s.pc.toNat) s.pc

/-! ### Fetch -/

/-- The word at pc, high byte first; `none` when pc and pc + 1 are not both addresses (10_state.md R41, 20_memory.md
R64, R70). -/
def State.fetchWord (s : State) : Option Word :=
  if inMemory s.pc.toNat Config.insnBytes then
    some (wordOfBytes (s.byteAt s.pc.toNat) (s.byteAt (s.pc.toNat + 1)))
  else none

end Sys2Proof.Machine
end

