-- ==== Sys2Proof/Machine/Flags.lean ====
section
/-! DEFINITION. Every flag computation of the machine: what VF becomes (10_state.md R22). -/

namespace Sys2Proof.Machine

/-- VF as a flag: 1 or 0 (10_state.md R22). -/
def flagByte (b : Bool) : Byte := if b then 1 else 0

/-- 8xy4: 1 iff the sum before the wrap is 256 or more (42_alu.md R146). -/
def carryFlag (a b : Byte) : Byte := flagByte (decide (256 ≤ a.toNat + b.toNat))

/-- 8xy5 and 8xy7, for `a - b`: 1 iff it does not borrow (42_alu.md R147, R149). -/
def noBorrowFlag (a b : Byte) : Byte := flagByte (decide (b.toNat ≤ a.toNat) == Config.borrowFlagSetOnNoBorrow)

/-- 8xy6: bit 0 before the shift (42_alu.md R148). -/
def shrFlag (a : Byte) : Byte := flagByte (a.getLsbD 0)

/-- 8xyE: bit 7 before the shift (42_alu.md R150). -/
def shlFlag (a : Byte) : Byte := flagByte (a.getLsbD 7)

/-- Dxyn: 1 iff a pixel went from set to unset (45_display.md R181). -/
def collisionFlag (coll : Bool) : Byte := flagByte coll

end Sys2Proof.Machine
end

