-- ==== Sys2Proof/Machine/Operands.lean ====
section
/-! DEFINITION. The operand forms: literals, the effective address, the byte counts, key codes, the sprite's place. -/

namespace Sys2Proof.Machine

/-- `zext_16(nnn)` (30_encoding.md R93). -/
def addrOperand (nnn : Addr12) : Word := nnn.setWidth 16

/-- `zext_16(V[r])` (43_index_memory.md R161). -/
def State.regWord (s : State) (r : Nibble) : Word := (s.reg r).setWidth 16

/-- The base of every data access, `I` as an unbounded integer: `EA = I + k` is not reduced (43_index_memory.md R166,
20_memory.md R63). -/
def State.dataBase (s : State) : Nat := s.i.toNat

/-- How many registers STM and LDM move: V0 to Vx inclusive, x + 1 (43_index_memory.md R164, R165). -/
def memopCount (x : Nibble) : Nat := if Config.memopInclusive then x.toNat + 1 else x.toNat

/-- The address of the glyph of a value, `0x50 + 5 * V[x]` on the whole byte (43_index_memory.md R162). -/
def glyphAddr (value : Byte) : Word := BitVec.ofNat 16 (Config.fontBase + Config.fontGlyphBytes * value.toNat)

/-- The decimal digits of a byte: hundreds, tens, ones (43_index_memory.md R163). -/
def decimalDigits (a : Byte) : List Byte :=
  [BitVec.ofNat 8 (a.toNat / 100), BitVec.ofNat 8 (a.toNat / 10 % 10), BitVec.ofNat 8 (a.toNat % 10)]

/-- `keys[k]` for a key number (00_scope.md R10). -/
def State.keyHeld (s : State) (k : Nat) : Bool := s.keys.getLsbD k

/-- `pressed(k)`: a code above 0xF is never pressed (44_random_input_timer.md R177). -/
def State.pressed (s : State) (code : Byte) : Bool :=
  if code.toNat < Config.nKeys then s.keyHeld code.toNat else false

/-- The least key that is held, if any is (44_random_input_timer.md R174). -/
def State.lowestKey (s : State) : Option Nat := (List.range Config.nKeys).find? s.keyHeld

/-- The start column of a sprite, `V[x] mod 64` (45_display.md R181). -/
def State.spriteCol (s : State) (x : Nibble) : Nat := (s.reg x).toNat % Config.dispW

/-- The start row of a sprite, `V[y] mod 32` (45_display.md R181). -/
def State.spriteRow (s : State) (y : Nibble) : Nat := (s.reg y).toNat % Config.dispH

/-- Column `col` of a sprite row: bit 7 is column 0, the leftmost (45_display.md R182). -/
def spriteBit (row : Byte) (col : Nat) : Bool := row.getLsbD (7 - col)

end Sys2Proof.Machine
end

