-- ==== Sys2Proof/Machine/Alu.lean ====
section
/-! DEFINITION. Register loads and arithmetic (42_alu.md). Both operands are read before anything is written, and
where there is a flag it is written after the result (R152). -/

namespace Sys2Proof.Machine

/-- `LDI Vx, nn` (42_alu.md R140). -/
def execLdi (x : Nibble) (nn : Byte) (s : State) : Result := .next (s.setReg x nn)

/-- `ADDI Vx, nn`: modulo 256, no flag (42_alu.md R141). -/
def execAddi (x : Nibble) (nn : Byte) (s : State) : Result := .next (s.setReg x (s.reg x + nn))

/-- `MOV Vx, Vy` (42_alu.md R142). -/
def execMov (x y : Nibble) (s : State) : Result := .next (s.setReg x (s.reg y))

/-- `OR Vx, Vy` (42_alu.md R143). -/
def execOr (x y : Nibble) (s : State) : Result := .next (s.setReg x (s.reg x ||| s.reg y))

/-- `AND Vx, Vy` (42_alu.md R144). -/
def execAnd (x y : Nibble) (s : State) : Result := .next (s.setReg x (s.reg x &&& s.reg y))

/-- `XOR Vx, Vy` (42_alu.md R145). -/
def execXor (x y : Nibble) (s : State) : Result := .next (s.setReg x (s.reg x ^^^ s.reg y))

/-- `ADD Vx, Vy` (42_alu.md R146). -/
def execAdd (x y : Nibble) (s : State) : Result :=
  .next (s.setRegFlag x (s.reg x + s.reg y) (carryFlag (s.reg x) (s.reg y)))

/-- `SUB Vx, Vy` (42_alu.md R147). -/
def execSub (x y : Nibble) (s : State) : Result :=
  .next (s.setRegFlag x (s.reg x - s.reg y) (noBorrowFlag (s.reg x) (s.reg y)))

/-- `SHR Vx`: Vx in place, Vy is not read (42_alu.md R148). -/
def execShr (x : Nibble) (s : State) : Result := .next (s.setRegFlag x (s.reg x >>> 1) (shrFlag (s.reg x)))

/-- `SUBN Vx, Vy` (42_alu.md R149). -/
def execSubn (x y : Nibble) (s : State) : Result :=
  .next (s.setRegFlag x (s.reg y - s.reg x) (noBorrowFlag (s.reg y) (s.reg x)))

/-- `SHL Vx`: Vx in place, Vy is not read (42_alu.md R150). -/
def execShl (x : Nibble) (s : State) : Result := .next (s.setRegFlag x (s.reg x <<< 1) (shlFlag (s.reg x)))

end Sys2Proof.Machine
end

