-- ==== Sys2Proof/Machine/Display.lean ====
section
/-! DEFINITION. The display: one pixel, the draw loop of 45_display.md R181, and the instructions CLS and DRW. -/

namespace Sys2Proof.Machine

/-- `DISP[x][y]`; a place outside the grid reads as off, and no instruction reads one (10_state.md R31). -/
def Display.get (d : Display) (x y : Nat) : Bool :=
  if h : x < Config.dispW ∧ y < Config.dispH then (d[y]'h.2)[x]'h.1 else false

/-- `DISP[x][y] <- DISP[x][y] ^ 1`; outside the grid nothing (45_display.md R181). -/
def Display.toggle (d : Display) (x y : Nat) : Display :=
  if h : x < Config.dispW ∧ y < Config.dispH then
    d.set y ((d[y]'h.2).set x (!(d[y]'h.2)[x]'h.1) h.1) h.2
  else d

/-- Every pixel off (45_display.md R180). -/
def Display.blank : Display := Vector.replicate Config.dispH (Vector.replicate Config.dispW false)

/-- The draw in progress: the display and whether a set pixel has been unset. -/
structure Canvas where
  disp : Display
  coll : Bool
  deriving DecidableEq, Repr

/-- The innermost body of R181: a place past column 63 or row 31 is clipped, a 0 bit changes nothing. -/
def Canvas.drawBit (c : Canvas) (x y : Nat) (bit : Bool) : Canvas :=
  if x < Config.dispW ∧ y < Config.dispH ∧ bit = true then
    { disp := Display.toggle c.disp x y, coll := c.coll || Display.get c.disp x y }
  else c

/-- One sprite row, columns 0 to 7, from display column `x0` on display row `y` (R181, R182). -/
def Canvas.drawRow (c : Canvas) (x0 y : Nat) (row : Byte) : Canvas :=
  (List.range 8).foldl (fun c col => c.drawBit (x0 + col) y (spriteBit row col)) c

/-- The sprite rows, one display row each, from display row `y` down (R181). -/
def Canvas.drawRows (c : Canvas) (x0 : Nat) : Nat → List Byte → Canvas
  | _, [] => c
  | y, row :: rows => (c.drawRow x0 y row).drawRows x0 (y + 1) rows

/-- `CLS` (45_display.md R180). -/
def execCls (s : State) : Result := .next (s.setDisp Display.blank)

/-- The state after a sprite is drawn: the display, then VF (45_display.md R181). -/
def State.drawSprite (s : State) (x0 y0 : Nat) (rows : List Byte) : State :=
  let c := Canvas.drawRows { disp := s.disp, coll := false } x0 y0 rows
  (s.setDisp c.disp).setFlag (collisionFlag c.coll)

/-- `DRW Vx, Vy, n`: the n bytes are read, all checked, before anything is drawn; VF is written last
(45_display.md R181). -/
def execDrw (x y n : Nibble) (s : State) : Result :=
  .next (s.orDataFault ((s.memRead s.dataBase n.toNat).map (s.drawSprite (s.spriteCol x) (s.spriteRow y))))

end Sys2Proof.Machine
end

