-- ==== Sys2Proof/Machine/Flow.lean ====
section
/-! DEFINITION. Control transfer (40_flow.md). In every meaning pc already holds the instruction's own address plus
2 (10_state.md R25). -/

namespace Sys2Proof.Machine

/-- `RET` (40_flow.md R120). -/
def execRet (s : State) : Result := .next s.popPc

/-- `JP nnn` (40_flow.md R121). -/
def execJp (nnn : Addr12) (s : State) : Result := .next (s.setPc (addrOperand nnn))

/-- `CALL nnn` (40_flow.md R122). -/
def execCall (nnn : Addr12) (s : State) : Result := .next (s.pushPc.setPc (addrOperand nnn))

/-- `JPV0 nnn`: the 16-bit sum, not reduced to 12 bits (40_flow.md R123). -/
def execJpv0 (nnn : Addr12) (s : State) : Result :=
  .next (s.setPc (addrOperand nnn + s.regWord Config.indexedJumpBase))

end Sys2Proof.Machine
end

