-- ==== Sys2Proof/Machine/Index.lean ====
section
/-! DEFINITION. The address register and the memory instructions (43_index_memory.md). -/

namespace Sys2Proof.Machine

/-- `LDA nnn` (43_index_memory.md R160). -/
def execLda (nnn : Addr12) (s : State) : Result := .next (s.setI (addrOperand nnn))

/-- `ADDA Vx`: modulo 2^16, no flag (43_index_memory.md R161). -/
def execAdda (x : Nibble) (s : State) : Result := .next (s.setI (s.i + s.regWord x))

/-- `FONT Vx` (43_index_memory.md R162). -/
def execFont (x : Nibble) (s : State) : Result := .next (s.setI (glyphAddr (s.reg x)))

/-- `BCD Vx` (43_index_memory.md R163). -/
def execBcd (x : Nibble) (s : State) : Result :=
  .next (s.orDataFault (s.memWrite s.dataBase (decimalDigits (s.reg x))))

/-- `STM Vx` (43_index_memory.md R164). -/
def execStm (x : Nibble) (s : State) : Result :=
  .next (s.orDataFault ((s.memWrite s.dataBase (s.firstRegs (memopCount x))).map State.afterMemop))

/-- `LDM Vx` (43_index_memory.md R165). -/
def execLdm (x : Nibble) (s : State) : Result :=
  .next (s.orDataFault ((s.memRead s.dataBase (memopCount x)).map fun bs => (s.setFirstRegs bs).afterMemop))

end Sys2Proof.Machine
end

