-- ==== Sys2Proof/Machine/Input.lean ====
section
/-! DEFINITION. Random, keypad and timer instructions (44_random_input_timer.md). `s.keys` and `s.rnd` are the inputs
of this instruction cycle. -/

namespace Sys2Proof.Machine

/-- `RND Vx, nn` (44_random_input_timer.md R170). -/
def execRnd (x : Nibble) (nn : Byte) (s : State) : Result := .next (s.setReg x (s.rnd &&& nn))

/-- `SKP Vx` (44_random_input_timer.md R171). -/
def execSkp (x : Nibble) (s : State) : Result := .next (s.skipIf (s.pressed (s.reg x)))

/-- `SKNP Vx` (44_random_input_timer.md R172). -/
def execSknp (x : Nibble) (s : State) : Result := .next (s.skipIf (!s.pressed (s.reg x)))

/-- `LDDT Vx` (44_random_input_timer.md R173). -/
def execLddt (x : Nibble) (s : State) : Result := .next (s.setReg x s.dt)

/-- `WKEY Vx`: with no key held pc goes back to this instruction, else the lowest held code is loaded
(44_random_input_timer.md R174). -/
def execWkey (x : Nibble) (s : State) : Result :=
  .next (match s.lowestKey with
    | none => s.rewindPc
    | some k => s.setReg x (BitVec.ofNat 8 k))

/-- `STDT Vx` (44_random_input_timer.md R175). -/
def execStdt (x : Nibble) (s : State) : Result := .next (s.setDt (s.reg x))

/-- `STST Vx` (44_random_input_timer.md R176). -/
def execStst (x : Nibble) (s : State) : Result := .next (s.setSt (s.reg x))

end Sys2Proof.Machine
end

