-- ==== Sys2Proof/Machine/Skip.lean ====
section
/-! DEFINITION. The conditional skips on registers (41_skip.md). -/

namespace Sys2Proof.Machine

/-- `SEI Vx, nn` (41_skip.md R130). -/
def execSei (x : Nibble) (nn : Byte) (s : State) : Result := .next (s.skipIf (s.reg x == nn))

/-- `SNEI Vx, nn` (41_skip.md R131). -/
def execSnei (x : Nibble) (nn : Byte) (s : State) : Result := .next (s.skipIf (s.reg x != nn))

/-- `SER Vx, Vy` (41_skip.md R132). -/
def execSer (x y : Nibble) (s : State) : Result := .next (s.skipIf (s.reg x == s.reg y))

/-- `SNER Vx, Vy` (41_skip.md R133). -/
def execSner (x y : Nibble) (s : State) : Result := .next (s.skipIf (s.reg x != s.reg y))

end Sys2Proof.Machine
end

