-- ==== Sys2Proof/Machine/HostPort.lean ====
section
/-! DEFINITION. The TIMER agent and the host's side of the block: ticks, input sampling, reset, program load, and the
outputs (60_exceptions.md R212 to R221, 70_reset_and_hazards.md R240 to R242). -/

namespace Sys2Proof.Machine

/-! ### Ticks -/

/-- One timer at one tick: down by one, not below 0 (60_exceptions.md R212). -/
def tickTimer (t : Byte) : Byte := if t = 0 then 0 else t - 1

/-- One TIMER step, also while waiting and while HALTED (60_exceptions.md R210, R212). -/
def State.tick (s : State) : State := { s with dt := tickTimer s.dt, st := tickTimer s.st }

/-- One timer after `n` ticks. -/
def timerAfter : Nat → Byte → Byte
  | 0, t => t
  | n + 1, t => timerAfter n (tickTimer t)

/-- `n` TIMER steps. -/
def State.ticks (s : State) (n : Nat) : State := { s with dt := timerAfter n s.dt, st := timerAfter n s.st }

/-! ### Inputs -/

/-- The host's record for the coming cycle: the next of `inputs`, and where there is none a free one
(10_state.md R35 to R37; log 3, 4, 5). -/
def State.nextInput (s : State) : HostInput :=
  match s.inputs with
  | h :: _ => h
  | [] => { ticks := Config.freeTicks s.clock, keys := Config.freeKeys s.clock, rnd := Config.freeRnd s.clock }

/-- The inputs are sampled once, at the start of the instruction cycle (10_state.md R35, R36, R41). -/
def State.sample (s : State) (keys : Word) (rnd : Byte) : State := { s with keys := keys, rnd := rnd }

/-- The input record is used up. -/
def State.dropInput (s : State) : State := { s with inputs := s.inputs.tail, clock := s.clock + 1 }

/-- What happens before the instruction cycle of a step: the ticks that are due fall, and the inputs are sampled
(10_state.md R42, 60_exceptions.md R214). -/
def State.beginStep (s : State) : State :=
  ((s.ticks s.nextInput.ticks).sample s.nextInput.keys s.nextInput.rnd).dropInput

/-! ### Reset and load -/

/-- The state after reset and program load, before the first instruction cycle: byte k of the image at `0x200 + k`,
all else at its reset value (10_state.md R40, 70_reset_and_hazards.md R242). -/
def State.booted (image : List Byte) : State :=
  { State.reset with mem := Memory.writeBytes State.reset.mem Config.progBase image }

/-- The reset event with the program load that belongs to it: every piece of the spec's state to its value after reset
and load; an image longer than 3584 bytes is refused as `RomTooLarge`. The host writes memory here and nowhere else
(20_memory.md R75; log 15). The host's coming inputs and the count of those used are not the block's and go on
(70_reset_and_hazards.md R240, R242, 60_exceptions.md R203, R221; log 10, 14). -/
def State.hostReset (s : State) (image : List Byte) : Result :=
  if image.length ≤ Config.progMax then
    .next { State.booted image with inputs := s.inputs, clock := s.clock }
  else .fault .romTooLarge

/-! ### Outputs -/

/-- The code of `FAULT.cause` (60_exceptions.md R204). -/
def FaultCause.code : FaultCause → BitVec 2
  | .none => 0
  | .illegalOpcode => 1
  | .memoryAddressOutOfRange => 2
  | .romTooLarge => 3

/-- `sound_active` (60_exceptions.md R215). -/
def State.soundActive (s : State) : Bool := s.st != 0

/-- `halted` (60_exceptions.md R219). -/
def State.haltedOut (s : State) : Bool := s.run == .halted

/-- `fault_cause[1:0]` (60_exceptions.md R219). -/
def State.faultCauseOut (s : State) : BitVec 2 := s.fault.cause.code

/-- `fault_info[15:0]` (60_exceptions.md R219). -/
def State.faultInfoOut (s : State) : Word := s.fault.info

/-- `fault_pc[15:0]` (60_exceptions.md R219). -/
def State.faultPcOut (s : State) : Word := s.fault.fpc

/-- The display read port, the whole grid (60_exceptions.md R218). -/
def State.displayOut (s : State) : Display := s.disp

/-- The result of a CORE step (10_state.md R39, R41). -/
inductive StepResult where
  | done
  | awaitingKey
  | fault
  deriving DecidableEq, Repr

/-- The cycle that begins in this state, its inputs sampled, executes Fx0A with no key held (10_state.md R41). -/
def State.awaitsKey (s : State) : Bool :=
  match s.fetchWord.bind decodeWord with
  | some (.wkey _) => s.keys == 0
  | _ => false

end Sys2Proof.Machine
end

