-- ==== Sys2Proof/Machine/Step.lean ====
section
/-! DEFINITION. One step of the machine, the host's moves, and how a word is placed where the next step runs it. -/

namespace Sys2Proof.Machine

/-- The instruction cycle of 10_state.md R41, its inputs already sampled: a HALTED core does nothing; else fetch,
advance pc, decode, execute. -/
def coreCycle (s : State) : Result :=
  match s.run with
  | .halted => .next s
  | .running =>
    match s.fetchWord with
    | none => .next s.raiseFetchFault
    | some w =>
      match decodeWord w with
      | none => .next (s.advancePc.raiseIllegalOpcode w)
      | some i => exec i s.advancePc

/-- One step: the ticks that are due, then one instruction cycle under the next inputs. -/
def step (s : State) : Host.Outcome State Fault Refusal := coreCycle s.beginStep

/-- What the step from a state returns to the host (10_state.md R41): `fault` when the core is HALTED after it,
`awaiting_key` when Fx0A found no key, else `done`. -/
def stepResult (s : State) : StepResult :=
  match step s with
  | .next t => if t.run = .halted then .fault else if s.beginStep.awaitsKey then .awaitingKey else .done
  | .fault _ => .fault
  | .refused _ => .fault

/-- The control inputs of the block, one move of the outside world each (60_exceptions.md R221). -/
inductive HostMove where
  /-- the reset event, with the program image that the load port writes during it; with the empty image nothing is
  loaded -/
  | reset (image : List Byte)
  /-- one tick event -/
  | tick
  /-- the request for one instruction cycle, with the values on the inputs during it -/
  | cycle (keys : Word) (rnd : Byte)
  deriving DecidableEq, Repr

/-- What a move does: the agents of 00_scope.md R6, each step of theirs on its own. -/
def applyMove (m : HostMove) (s : State) : Result :=
  match m with
  | .reset image => s.hostReset image
  | .tick => .next s.tick
  | .cycle keys rnd => coreCycle (s.sample keys rnd)

/-- The state with an instruction stored at pc and able to run it: RUNNING, and pc at the entry point where a fetch at
pc is not possible (log 11). -/
def State.withFetchWord (s : State) (nbits w : Nat) : State :=
  let pc : Word := if inMemory s.pc.toNat Config.insnBytes then s.pc else BitVec.ofNat 16 Config.progBase
  { s with
    pc := pc
    run := .running
    fault := .clear
    mem := Memory.writeBytes s.mem pc.toNat (bytesOfWord (tableWord nbits w)) }

end Sys2Proof.Machine
end

