-- ==== Sys2Proof/Safety.lean ====
section
/-! DEFINITION. What counts as a safe run, the invariant of the machine, and the tables of the spec that statements are
made in: the data access of each instruction (20_memory.md R67) and its write set (10_state.md R43). -/

namespace Sys2Proof.Machine

/-! ### Safe runs -/

/-- A state in which the core still executes (10_state.md R33). -/
def State.isSafe (s : State) : Bool := s.run == .running

/-- A run of `n` steps that ends RUNNING: no fault was taken on the way, since HALTED stays (60_exceptions.md R208,
R210). -/
def SafeRun (n : Nat) (s : State) : Prop := ∃ t, Sys2Proof.core.run n s = .next t ∧ t.isSafe = true

/-- The moves of the outside world, one after another (60_exceptions.md R221). -/
def applyMoves : List HostMove → State → Result
  | [], s => .next s
  | m :: ms, s =>
    match applyMove m s with
    | .next t => applyMoves ms t
    | .fault r => .fault r
    | .refused r => .refused r

/-- CALLs one after another, each `(address after it, target)`; between them the program may go anywhere, so each
starts with pc put to its own value. -/
def CallChain : State → List (Word × Addr12) → State → Prop
  | s, [], t => t = s
  | s, c :: cs, t => ∃ u, exec (.call c.2) { s with pc := c.1 } = .next u ∧ CallChain u cs t

/-! ### Data accesses (20_memory.md R67) -/

/-- How many bytes from `I` up an instruction accesses. -/
def dataBytes : Instr → Nat
  | .drw _ _ n => n.toNat
  | .bcd _ => 3
  | .stm x | .ldm x => x.toNat + 1
  | .cls _ | .ret _ | .jp _ | .call _ | .sei _ _ | .snei _ _ | .ser _ _ _ | .ldi _ _ | .addi _ _ => 0
  | .mov _ _ | .or _ _ | .and _ _ | .xor _ _ | .add _ _ | .sub _ _ | .shr _ _ | .subn _ _ | .shl _ _ => 0
  | .sner _ _ _ | .lda _ | .jpv0 _ | .rnd _ _ | .skp _ | .sknp _ | .lddt _ | .wkey _ | .stdt _ | .stst _ => 0
  | .adda _ | .font _ => 0

/-- The instruction's data access leaves the memory: the one fault that an instruction can take (60_exceptions.md
R202). An instruction that accesses no byte never does. -/
def accessFaults (i : Instr) (s : State) : Bool :=
  decide (0 < dataBytes i) && decide (Config.memSize < s.dataBase + dataBytes i)

/-! ### Write sets (10_state.md R43) -/

/-- The column V of R43. -/
def writesReg : Instr → Nibble → Bool
  | .ldi x _, j | .addi x _, j | .rnd x _, j => j == x
  | .mov x _, j | .or x _, j | .and x _, j | .xor x _, j => j == x
  | .add x _, j | .sub x _, j | .shr x _, j | .subn x _, j | .shl x _, j => j == x || j == 0xF
  | .drw _ _ _, j => j == 0xF
  | .lddt x, j | .wkey x, j => j == x
  | .ldm x, j => decide (j.toNat ≤ x.toNat)
  | .cls _, _ | .ret _, _ | .jp _, _ | .call _, _ | .sei _ _, _ | .snei _ _, _ | .ser _ _ _, _ => false
  | .sner _ _ _, _ | .lda _, _ | .jpv0 _, _ | .skp _, _ | .sknp _, _ | .stdt _, _ | .stst _, _ => false
  | .adda _, _ | .font _, _ | .bcd _, _ | .stm _, _ => false

/-- The column I of R43. -/
def writesI : Instr → Bool
  | .lda _ | .adda _ | .font _ => true
  | .cls _ | .ret _ | .jp _ | .call _ | .sei _ _ | .snei _ _ | .ser _ _ _ | .ldi _ _ | .addi _ _ => false
  | .mov _ _ | .or _ _ | .and _ _ | .xor _ _ | .add _ _ | .sub _ _ | .shr _ _ | .subn _ _ | .shl _ _ => false
  | .sner _ _ _ | .jpv0 _ | .rnd _ _ | .drw _ _ _ | .skp _ | .sknp _ | .lddt _ | .wkey _ | .stdt _ => false
  | .stst _ | .bcd _ | .stm _ | .ldm _ => false

/-- The column pc of R43: what may write pc beside the common advance. -/
def writesPc : Instr → Bool
  | .ret _ | .jp _ | .call _ | .jpv0 _ => true
  | .sei _ _ | .snei _ _ | .ser _ _ _ | .sner _ _ _ | .skp _ | .sknp _ | .wkey _ => true
  | .cls _ | .ldi _ _ | .addi _ _ | .mov _ _ | .or _ _ | .and _ _ | .xor _ _ | .add _ _ | .sub _ _ => false
  | .shr _ _ | .subn _ _ | .shl _ _ | .lda _ | .rnd _ _ | .drw _ _ _ | .lddt _ | .stdt _ | .stst _ => false
  | .adda _ | .font _ | .bcd _ | .stm _ | .ldm _ => false

/-- The column SP of R43. -/
def writesSp : Instr → Bool
  | .ret _ | .call _ => true
  | .cls _ | .jp _ | .sei _ _ | .snei _ _ | .ser _ _ _ | .ldi _ _ | .addi _ _ => false
  | .mov _ _ | .or _ _ | .and _ _ | .xor _ _ | .add _ _ | .sub _ _ | .shr _ _ | .subn _ _ | .shl _ _ => false
  | .sner _ _ _ | .lda _ | .jpv0 _ | .rnd _ _ | .drw _ _ _ | .skp _ | .sknp _ | .lddt _ | .wkey _ => false
  | .stdt _ | .stst _ | .adda _ | .font _ | .bcd _ | .stm _ | .ldm _ => false

/-- The column STACK of R43: the slot that CALL writes. -/
def writesSlot : Instr → State → Nibble → Bool
  | .call _, s, k => k == s.sp
  | .cls _, _, _ | .ret _, _, _ | .jp _, _, _ | .sei _ _, _, _ | .snei _ _, _, _ | .ser _ _ _, _, _ => false
  | .ldi _ _, _, _ | .addi _ _, _, _ | .mov _ _, _, _ | .or _ _, _, _ | .and _ _, _, _ | .xor _ _, _, _ => false
  | .add _ _, _, _ | .sub _ _, _, _ | .shr _ _, _, _ | .subn _ _, _, _ | .shl _ _, _, _ => false
  | .sner _ _ _, _, _ | .lda _, _, _ | .jpv0 _, _, _ | .rnd _ _, _, _ | .drw _ _ _, _, _ => false
  | .skp _, _, _ | .sknp _, _, _ | .lddt _, _, _ | .wkey _, _, _ | .stdt _, _, _ | .stst _, _, _ => false
  | .adda _, _, _ | .font _, _, _ | .bcd _, _, _ | .stm _, _, _ | .ldm _, _, _ => false

/-- The column DISP of R43. -/
def writesDisp : Instr → Bool
  | .cls _ | .drw _ _ _ => true
  | .ret _ | .jp _ | .call _ | .sei _ _ | .snei _ _ | .ser _ _ _ | .ldi _ _ | .addi _ _ => false
  | .mov _ _ | .or _ _ | .and _ _ | .xor _ _ | .add _ _ | .sub _ _ | .shr _ _ | .subn _ _ | .shl _ _ => false
  | .sner _ _ _ | .lda _ | .jpv0 _ | .rnd _ _ | .skp _ | .sknp _ | .lddt _ | .wkey _ | .stdt _ => false
  | .stst _ | .adda _ | .font _ | .bcd _ | .stm _ | .ldm _ => false

/-- The column MEM of R43: how many bytes from `I` up an instruction stores. -/
def storedBytes : Instr → Nat
  | .bcd _ => 3
  | .stm x => x.toNat + 1
  | .cls _ | .ret _ | .jp _ | .call _ | .sei _ _ | .snei _ _ | .ser _ _ _ | .ldi _ _ | .addi _ _ => 0
  | .mov _ _ | .or _ _ | .and _ _ | .xor _ _ | .add _ _ | .sub _ _ | .shr _ _ | .subn _ _ | .shl _ _ => 0
  | .sner _ _ _ | .lda _ | .jpv0 _ | .rnd _ _ | .drw _ _ _ | .skp _ | .sknp _ | .lddt _ | .wkey _ => 0
  | .stdt _ | .stst _ | .adda _ | .font _ | .ldm _ => 0

/-- Reads the key snapshot (00_scope.md R7). -/
def readsKeys : Instr → Bool
  | .skp _ | .sknp _ | .wkey _ => true
  | .cls _ | .ret _ | .jp _ | .call _ | .sei _ _ | .snei _ _ | .ser _ _ _ | .ldi _ _ | .addi _ _ => false
  | .mov _ _ | .or _ _ | .and _ _ | .xor _ _ | .add _ _ | .sub _ _ | .shr _ _ | .subn _ _ | .shl _ _ => false
  | .sner _ _ _ | .lda _ | .jpv0 _ | .rnd _ _ | .drw _ _ _ | .lddt _ | .stdt _ | .stst _ => false
  | .adda _ | .font _ | .bcd _ | .stm _ | .ldm _ => false

/-! ### The sprite (45_display.md R181, R182) -/

/-- The bit that a sprite of `n` rows at `I`, placed at column `x0` and row `y0`, has over the pixel `(px, py)`: set
exactly when some row and column of it land there and its bit is 1. -/
def spriteLit (s : State) (x0 y0 n px py : Nat) : Bool :=
  decide (x0 ≤ px) && decide (px < x0 + 8) && decide (y0 ≤ py) && decide (py < y0 + n) &&
    (s.byteAt (s.dataBase + (py - y0))).getLsbD (7 - (px - x0))

/-! ### The invariant -/

/-- No value of pc above 0x10FE, no return address above 4096 (10_state.md R26). -/
def State.PcBounded (s : State) : Prop := s.pc.toNat ≤ 0x10FE ∧ ∀ k : Nibble, (s.slot k).toNat ≤ 4096

/-- The FAULT record of an illegal word (60_exceptions.md R201, R204). -/
def State.HoldsIllegalOpcode (s : State) : Prop :=
  s.fault.cause = .illegalOpcode ∧ decodeWord s.fault.info = none ∧ s.fault.fpc.toNat ≤ 4094 ∧
    s.pc.toNat = s.fault.fpc.toNat + 2

/-- The FAULT record of a fetch out of range (60_exceptions.md R202, R204). -/
def State.HoldsFetchFault (s : State) : Prop :=
  s.fault.cause = .memoryAddressOutOfRange ∧ 4094 < s.pc.toNat ∧ s.fault.fpc = s.pc ∧
    s.fault.info.toNat = max s.pc.toNat 4096

/-- The FAULT record of a data access out of range, at most 16 bytes (60_exceptions.md R202, R204; 20_memory.md
R67). -/
def State.HoldsDataFault (s : State) : Prop :=
  s.fault.cause = .memoryAddressOutOfRange ∧ s.fault.fpc.toNat ≤ 4094 ∧ s.pc.toNat = s.fault.fpc.toNat + 2 ∧
    s.fault.info.toNat = max s.i.toNat 4096 ∧ 4096 < s.i.toNat + 16

/-- RUN and the FAULT record agree (10_state.md R33, 60_exceptions.md R204). -/
def State.FaultLatched (s : State) : Prop :=
  (s.run = .running ∧ s.fault = FaultRecord.clear) ∨
    (s.run = .halted ∧ (s.HoldsIllegalOpcode ∨ s.HoldsFetchFault ∨ s.HoldsDataFault))

/-- The invariant that every step and every move keeps. -/
structure State.Inv (s : State) : Prop where
  /-- memory is in canonical form, no cell outside 0 to 4095 (20_memory.md R69) -/
  memory : Memory.wf s.mem = true
  /-- pc and the return addresses are bounded (10_state.md R26) -/
  pcBounded : s.PcBounded
  /-- RUN and the FAULT record agree (60_exceptions.md R204) -/
  faultLatched : s.FaultLatched

end Sys2Proof.Machine
end

