-- ==== Sys2Proof/Certificates/Slice0/Obligations.lean ====
section
/-! DEFINITION. The statements for the provers. Each docstring names the rule of spec/ that the statement formalises;
where a clause rests on a decision of spec/92_eei_decisions.md (the spec's own choice, not its source's words) or on
a choice of the model, it says so. `t = { s with v := t.v }` says that nothing but the named fields changes: every
other register, flag, memory byte, pixel, stack slot and timer is the one of `s`. -/

open Sys2Proof Sys2Proof.Machine

/-! ### Encoding -/

/-- Decode and encode agree, for every instruction with every operand at every value, and on bytes (30_encoding.md
R91, R95). -/
def Obligations.DecodeOfEncodeIsTheInstruction : Prop :=
  ∀ (i : Instr) (rest : List Byte),
    decodeWord (encode i) = some i ∧ decode (encodeBytes i ++ rest) = .ok (i, rest)

/-- No bit of a word is lost: whatever decodes is the encoding of what it decodes to, the don't-care digits included
(the model carries them, log 12; 30_encoding.md R91). -/
def Obligations.EncodeOfDecodeIsTheWord : Prop :=
  (∀ (w : Word) (i : Instr), decodeWord w = some i → encode i = w) ∧
    ∀ (bs rest : List Byte) (i : Instr), decode bs = .ok (i, rest) → bs = encodeBytes i ++ rest

/-- The opcode map of 30_encoding.md R95: a word is an instruction exactly when it matches the instruction's row, the
rows are 34, and no word matches two. (The masks of CLS, RET, SER, SNER rest on decision D1.) -/
def Obligations.WordIsInstructionExactlyWhenRowMatches : Prop :=
  opcodeRows.length = 34 ∧
    ∀ (w : Word) (r : OpcodeRow), r ∈ opcodeRows →
      ((w &&& r.mask = r.value ↔ ∃ i, decodeWord w = some i ∧ i.mnemonic = r.mnemonic) ∧
        ∀ q ∈ opcodeRows, q ≠ r → w &&& r.mask = r.value → w &&& q.mask ≠ q.value)

/-- The illegal words of 30_encoding.md R101, family by family, in numbers of the word (that `0nnn` is illegal is
decision D2). -/
def Obligations.IllegalWordsAreThoseOfTheTable : Prop :=
  ∀ w : Word, decodeWord w = none ↔
    (w.toNat / 4096 = 0x0 ∧ w.toNat % 256 ∉ [0xE0, 0xEE]) ∨
    (w.toNat / 4096 = 0x8 ∧ w.toNat % 16 ∈ [0x8, 0x9, 0xA, 0xB, 0xC, 0xD, 0xF]) ∨
    (w.toNat / 4096 = 0xE ∧ w.toNat % 256 ∉ [0x9E, 0xA1]) ∨
    (w.toNat / 4096 = 0xF ∧ w.toNat % 256 ∉ [0x07, 0x0A, 0x15, 0x18, 0x1E, 0x29, 0x33, 0x55, 0x65])

/-- A form with an unused digit executes as the one an assembler emits (30_encoding.md R100, decision D1; R148,
R150). -/
def Obligations.UnusedDigitsDoNotMatter : Prop :=
  ∀ (i : Instr) (s : State), i.canonical.wellFormed = true ∧ exec i s = exec i.canonical s

/-- Words written out from the patterns of 30_encoding.md R95, one or more of each family. Two of them, 0x03EE and
0x912F, have another digit than the printed one where the decoder does not look (R100, decision D1, log 21; the digit
is kept, log 12); that 0x0000 is illegal is decision D2 (R101, log 21). -/
def Obligations.WordsOfEachFamilyDecode : Prop :=
  decodeWord 0x00E0 = some (.cls 0x0) ∧ decodeWord 0x03EE = some (.ret 0x3) ∧
  decodeWord 0x1234 = some (.jp 0x234) ∧ decodeWord 0x3A42 = some (.sei 0xA 0x42) ∧
  decodeWord 0x912F = some (.sner 0x1 0x2 0xF) ∧ decodeWord 0x8127 = some (.subn 0x1 0x2) ∧
  decodeWord 0x812E = some (.shl 0x1 0x2) ∧ decodeWord 0xA2F0 = some (.lda 0x2F0) ∧
  decodeWord 0xF255 = some (.stm 0x2) ∧ decodeWord 0xC30F = some (.rnd 0x3 0x0F) ∧
  decodeWord 0xE4A1 = some (.sknp 0x4) ∧ decodeWord 0xD125 = some (.drw 0x1 0x2 0x5) ∧
  decodeWord 0x8128 = none ∧ decodeWord 0x0000 = none

/-! ### The step -/

/-- A step runs the decoded instruction (10_state.md R41): after the ticks and samples of the next input record, and
the advance of pc by 2, it is `exec` of the instruction that the bytes at pc decode to. (That the ticks due fall just
before the cycle, and where the record comes from, is the model's choice, log 3 to 5.) -/
def Obligations.StepRunsTheDecodedInstruction : Prop :=
  ∀ (s : State) (i : Instr), s.run = .running → s.pc.toNat ≤ 4094 →
    decode [s.byteAt s.pc.toNat, s.byteAt (s.pc.toNat + 1)] = .ok (i, []) →
    step s = exec i
      { s with
        pc := s.pc + 2
        dt := timerAfter s.nextInput.ticks s.dt
        st := timerAfter s.nextInput.ticks s.st
        keys := s.nextInput.keys
        rnd := s.nextInput.rnd
        inputs := s.inputs.tail
        clock := s.clock + 1 }

/-- The host's request for one cycle with given inputs runs the decoded instruction under them (10_state.md R41,
60_exceptions.md R221). -/
def Obligations.CycleMoveRunsTheDecodedInstruction : Prop :=
  ∀ (s : State) (i : Instr) (keys : Word) (rnd : Byte), s.run = .running → s.pc.toNat ≤ 4094 →
    decode [s.byteAt s.pc.toNat, s.byteAt (s.pc.toNat + 1)] = .ok (i, []) →
    applyMove (.cycle keys rnd) s = exec i { s with pc := s.pc + 2, keys := keys, rnd := rnd }

/-- Instruction fetch (20_memory.md R64, R70): the two bytes at pc and pc + 1, the first high whatever the parity of pc
(decision D3), valid only when pc is at most 4094; else `MemoryAddressOutOfRange(max(pc, 4096))` is raised and pc is
unchanged; with pc = 4095 the datum is 4096 (decisions D12 to D14: the record). -/
def Obligations.FetchReadsTwoBytesOrFaults : Prop :=
  ∀ (s : State) (keys : Word) (rnd : Byte), s.run = .running →
    (s.pc.toNat ≤ 4094 →
      s.fetchWord = some (BitVec.ofNat 16 ((s.byteAt s.pc.toNat).toNat * 256 + (s.byteAt (s.pc.toNat + 1)).toNat))) ∧
    (4094 < s.pc.toNat →
      ∃ info : Word, info.toNat = max s.pc.toNat 4096 ∧ (s.pc.toNat = 4095 → info = 4096) ∧
        applyMove (.cycle keys rnd) s = .next
          { s with
            keys := keys
            rnd := rnd
            run := .halted
            fault := { cause := .memoryAddressOutOfRange, info := info, fpc := s.pc } })

/-- `IllegalOpcode(w)` (60_exceptions.md R201): raised in the decode stage when the fetched word is illegal, it records
cause 1, the word and the address it was fetched from, pc being advanced past it (decisions D12 to D14: the latch and
the record); no instruction raises it during execution. -/
def Obligations.IllegalWordHaltsWithTheWord : Prop :=
  FaultCause.illegalOpcode.code = 1 ∧
  (∀ (s : State) (keys : Word) (rnd : Byte) (w : Word), s.run = .running → s.fetchWord = some w →
    decodeWord w = none →
    applyMove (.cycle keys rnd) s = .next
      { s with
        pc := s.pc + 2
        keys := keys
        rnd := rnd
        run := .halted
        fault := { cause := .illegalOpcode, info := w, fpc := s.pc } }) ∧
  ∀ (i : Instr) (s t : State), exec i s = .next t → t.fault.cause = .illegalOpcode → t.fault = s.fault

/-- The data accesses of DRW, BCD, STM and LDM out of range: nothing is written but RUN and FAULT, which records cause
2, max(I, 4096) and the instruction's address (60_exceptions.md R202, R207, R208; decisions D13 and D14). -/
def Obligations.DataAccessOutOfRangeHaltsPrecisely : Prop :=
  FaultCause.memoryAddressOutOfRange.code = 2 ∧
  ∀ (i : Instr) (s : State), 0 < dataBytes i → 4096 < s.i.toNat + dataBytes i →
    exec i s = .next
      { s with
        run := .halted
        fault :=
          { cause := .memoryAddressOutOfRange, info := BitVec.ofNat 16 (max s.i.toNat 4096), fpc := s.pc - 2 } }

/-- The closed list of faults, 60_exceptions.md R200: every instruction answers a next state, and it touches RUN and
FAULT only when its data access leaves the memory (decision D13 gives what counts as leaving it). -/
def Obligations.OnlyAnAccessOutOfRangeStopsAnInstruction : Prop :=
  ∀ (i : Instr) (s : State), ∃ t, exec i s = .next t ∧
    (¬(0 < dataBytes i ∧ 4096 < s.i.toNat + dataBytes i) → t.run = s.run ∧ t.fault = s.fault)

/-- The machine never stops but by the spec's faults: every step answers a next state, and a step that enters HALTED
does so by a fetch, a decode or a data access fault (60_exceptions.md R200, R206; decision D15 orders them). -/
def Obligations.StepHaltsOnlyByAListedFault : Prop :=
  ∀ s : State, ∃ t, step s = .next t ∧
    (s.run = .running → t.run = .halted →
      (t.fault.cause = .memoryAddressOutOfRange ∧ s.fetchWord = none) ∨
      (∃ w, t.fault.cause = .illegalOpcode ∧ s.fetchWord = some w ∧ decodeWord w = none) ∨
      (∃ w i, t.fault.cause = .memoryAddressOutOfRange ∧ s.fetchWord = some w ∧ decodeWord w = some i ∧
        0 < dataBytes i ∧ 4096 < s.i.toNat + dataBytes i))

/-- A HALTED core does nothing on a step, and returns `fault`; the ticks go on (60_exceptions.md R210, decision
D23). -/
def Obligations.HaltedStepChangesOnlyTimersAndInputs : Prop :=
  ∀ s : State, s.run = .halted → stepResult s = .fault ∧
    step s = .next
      { s with
        dt := timerAfter s.nextInput.ticks s.dt
        st := timerAfter s.nextInput.ticks s.st
        keys := s.nextInput.keys
        rnd := s.nextInput.rnd
        inputs := s.inputs.tail
        clock := s.clock + 1 }

/-- HALTED is left only by reset, and the FAULT record keeps the first fault (60_exceptions.md R209; decision D12):
under every other move nothing but the timers and the sampled inputs changes, so also no byte of memory. -/
def Obligations.HaltedIsLeftOnlyByReset : Prop :=
  ∀ (ms : List HostMove) (s t : State), s.run = .halted → (∀ image, HostMove.reset image ∉ ms) →
    applyMoves ms s = .next t → t = { s with dt := t.dt, st := t.st, keys := t.keys, rnd := t.rnd }

/-- The result of a core step (10_state.md R41): `fault` exactly when the core is HALTED after it, `awaiting_key`
exactly when it executed Fx0A with keys = 0, else `done`. -/
def Obligations.StepResultIsAsTheCycleReturns : Prop :=
  ∀ s t : State, step s = .next t →
    (stepResult s = .fault ↔ t.run = .halted) ∧
    (stepResult s = .awaitingKey ↔ s.run = .running ∧ s.nextInput.keys = 0 ∧
      ∃ x, s.fetchWord.bind decodeWord = some (.wkey x))

/-- A store is seen by the next fetch (20_memory.md R74, decision D24): after STM has stored V[k] and V[k+1], a fetch
at their address reads the word that they form. -/
def Obligations.StoreIsSeenByTheNextFetch : Prop :=
  ∀ (x k : Nibble) (s t : State), s.dataBase + x.toNat ≤ 4095 → k.toNat + 1 ≤ x.toNat →
    exec (.stm x) s = .next t → t.pc.toNat = s.dataBase + k.toNat →
    t.fetchWord = some (wordOfBytes (s.reg k) (s.reg (k + 1)))

/-- The end of a run (70_reset_and_hazards.md R248, decision D27): a cycle that executes JP to its own address leaves
every piece of the spec's state unchanged. -/
def Obligations.SelfJumpChangesNothing : Prop :=
  ∀ (s : State) (nnn : Addr12) (keys : Word) (rnd : Byte), s.run = .running → s.pc.toNat = nnn.toNat →
    s.fetchWord = some (encode (.jp nnn)) →
    applyMove (.cycle keys rnd) s = .next { s with keys := keys, rnd := rnd }

/-! ### Reset, load, ticks -/

/-- The state after reset (10_state.md R40, 70_reset_and_hazards.md R240): registers, I, stack, timers 0, display off,
pc 0x0200, RUNNING, no fault; memory 0 but for the font; and the reset event with the empty image gives it from any
state. The values but the font's place are the spec's own (decisions D8 to D14); the font's bytes are the parameter
`Config.font` (log 2); that the host's coming inputs and their count go on is the model's choice (log 10). -/
def Obligations.ResetLeavesTheStatedValues : Prop :=
  (∀ r, State.reset.reg r = 0) ∧ (∀ k, State.reset.slot k = 0) ∧
  (∀ px py, Display.get State.reset.disp px py = false) ∧
  (∀ a, State.reset.byteAt a = if 0x50 ≤ a ∧ a < 0xA0 then Config.font.getD (a - 0x50) 0 else 0) ∧
  Config.font.length = 80 ∧
  State.reset.i = 0 ∧ State.reset.pc = 0x0200 ∧ State.reset.sp = 0 ∧ State.reset.dt = 0 ∧ State.reset.st = 0 ∧
  State.reset.run = .running ∧ State.reset.fault = { cause := .none, info := 0, fpc := 0 } ∧
  ∀ s : State, applyMove (.reset []) s = .next { State.reset with inputs := s.inputs, clock := s.clock }

/-- Program load (70_reset_and_hazards.md R242): with reset, byte k of the image goes to address 0x200 + k and all else
of the spec's state is at its reset value, whatever the state was; an image longer than 3584 bytes is refused; and
with nothing loaded the first cycle after reset raises IllegalOpcode(0x0000) (which rests on the reset values,
decisions D8 and D10). That the load is part of the reset move is the model's choice (log 15). -/
def Obligations.LoadPlacesTheImageOrRefusesIt : Prop :=
  (∀ (s : State) (image : List Byte), image.length ≤ 3584 →
    ∃ t, applyMove (.reset image) s = .next t ∧
      t = { State.reset with mem := t.mem, inputs := s.inputs, clock := s.clock } ∧
      ∀ a, t.byteAt a =
        if 0x200 ≤ a ∧ a < 0x200 + image.length then image.getD (a - 0x200) 0 else State.reset.byteAt a) ∧
  (∀ (s : State) (image : List Byte), 3584 < image.length →
    applyMove (.reset image) s = .fault .romTooLarge) ∧
  ∃ t, step State.reset = .next t ∧ t.run = .halted ∧
    t.fault = { cause := .illegalOpcode, info := 0x0000, fpc := 0x0200 }

/-- The tick, 60_exceptions.md R212: each nonzero timer goes down by one, a timer at 0 stays, nothing else changes; so
n ticks take n from each timer, not below 0, and 255 ticks bring any value to 0. -/
def Obligations.TicksCountBothTimersDownToZero : Prop :=
  ∀ (s : State),
    (∃ t, applyMove .tick s = .next t ∧ t = { s with dt := t.dt, st := t.st } ∧
      t.dt.toNat = s.dt.toNat - 1 ∧ t.st.toNat = s.st.toNat - 1) ∧
    ∀ n, ∃ t, applyMoves (List.replicate n .tick) s = .next t ∧ t = s.ticks n ∧
      t = { s with dt := t.dt, st := t.st } ∧
      t.dt.toNat = s.dt.toNat - n ∧ t.st.toNat = s.st.toNat - n ∧ (255 ≤ n → t.dt = 0 ∧ t.st = 0)

/-- What a program reads of the delay timer after it has set it (70_reset_and_hazards.md R246): with n ticks between,
the value less n, never more than the value. -/
def Obligations.DelayTimerReadsBackLessTheTicks : Prop :=
  ∀ (x y : Nibble) (n : Nat) (s t u : State), exec (.stdt x) s = .next t → exec (.lddt y) (t.ticks n) = .next u →
    (u.reg y).toNat = (s.reg x).toNat - n

/-! ### Control transfer and skips -/

/-- JP (40_flow.md R121), with its words: pc becomes nnn, nothing else changes; nnn = 0xFFF gives pc = 4095, and the
cycle after that faults in its fetch (20_memory.md R70, 60_exceptions.md R202; the datum 4096, the latch and the
record are decisions D12 to D14, log 22). -/
def Obligations.JumpSetsPcToTheLiteral : Prop :=
  (∀ w : Word, w &&& 0xF000 = 0x1000 ↔ decodeWord w = some (.jp (fieldNNN w))) ∧
  ∀ (nnn : Addr12) (s : State), ∃ t, exec (.jp nnn) s = .next t ∧ t = { s with pc := t.pc } ∧
    t.pc.toNat = nnn.toNat ∧
    (nnn = 0xFFF → s.run = .running → ∀ (keys : Word) (rnd : Byte),
      applyMove (.cycle keys rnd) t = .next
        { t with
          keys := keys
          rnd := rnd
          run := .halted
          fault := { cause := .memoryAddressOutOfRange, info := 4096, fpc := 4095 } })

/-- CALL, RET and JPV0 (40_flow.md R120, R122, R123): the pushed pc, the popped slot, the 16-bit sum; SP moves modulo
16 with no fault (decision D7) and the sum is not reduced to 12 bits (decision D26). -/
def Obligations.CallReturnAndIndexedJump : Prop :=
  (∀ (nnn : Addr12) (s : State), ∃ t, exec (.call nnn) s = .next t ∧
    t = { s with pc := t.pc, sp := t.sp, stack := t.stack } ∧ t.pc.toNat = nnn.toNat ∧
    t.sp.toNat = (s.sp.toNat + 1) % 16 ∧ ∀ k, t.slot k = if k = s.sp then s.pc else s.slot k) ∧
  (∀ (d : Nibble) (s : State), ∃ t, exec (.ret d) s = .next t ∧
    t = { s with pc := t.pc, sp := t.sp } ∧ t.sp.toNat = (s.sp.toNat + 15) % 16 ∧ t.pc = s.slot t.sp) ∧
  ∀ (nnn : Addr12) (s : State), ∃ t, exec (.jpv0 nnn) s = .next t ∧
    t = { s with pc := t.pc } ∧ t.pc.toNat = nnn.toNat + (s.reg 0).toNat

/-- A call followed by a return, with any instructions between that leave SP and the stack alone, gives back pc and SP
(40_flow.md R122's property). -/
def Obligations.ReturnUndoesCall : Prop :=
  ∀ (nnn : Addr12) (d : Nibble) (s t u : State), exec (.call nnn) s = .next t → u.sp = t.sp → u.stack = t.stack →
    ∃ w, exec (.ret d) u = .next w ∧ w.pc = s.pc ∧ w.sp = s.sp

/-- The call stack holds up to 16 return addresses, in the order of the calls; a 17th call overwrites the oldest
(40_flow.md R122, 10_state.md R28, decision D7). -/
def Obligations.SeventeenthCallOverwritesTheOldest : Prop :=
  ∀ (s t : State) (cs : List (Word × Addr12)), CallChain s cs t →
    t.sp = s.sp + BitVec.ofNat 4 cs.length ∧
    (cs.length ≤ 16 → ∀ k (h : k < cs.length), t.slot (s.sp + BitVec.ofNat 4 k) = (cs[k]).1) ∧
    (cs.length = 17 → ∀ k (h : k < cs.length), 1 ≤ k → t.slot (s.sp + BitVec.ofNat 4 k) = (cs[k]).1)

/-- The skips against a literal, 41_skip.md R130 and R131, with their words: pc goes up by 2 when the condition holds,
and nothing else changes. -/
def Obligations.ImmediateSkipsAddTwoWhenTaken : Prop :=
  (∀ w : Word, w &&& 0xF000 = 0x3000 ↔ decodeWord w = some (.sei (fieldX w) (fieldNN w))) ∧
  (∀ w : Word, w &&& 0xF000 = 0x4000 ↔ decodeWord w = some (.snei (fieldX w) (fieldNN w))) ∧
  ∀ (x : Nibble) (nn : Byte) (s : State),
    exec (.sei x nn) s = .next { s with pc := if (s.reg x).toNat = nn.toNat then s.pc + 2 else s.pc } ∧
    exec (.snei x nn) s = .next { s with pc := if (s.reg x).toNat ≠ nn.toNat then s.pc + 2 else s.pc }

/-- The skips on two registers (41_skip.md R132, R133), with their words, the last digit of which is not looked at by
decision D1: pc goes up by 2 when the condition holds, and nothing else changes. -/
def Obligations.RegisterSkipsAddTwoWhenTaken : Prop :=
  (∀ w : Word, w &&& 0xF000 = 0x5000 ↔ decodeWord w = some (.ser (fieldX w) (fieldY w) (fieldN w))) ∧
  (∀ w : Word, w &&& 0xF000 = 0x9000 ↔ decodeWord w = some (.sner (fieldX w) (fieldY w) (fieldN w))) ∧
  ∀ (x y d : Nibble) (s : State),
    exec (.ser x y d) s = .next { s with pc := if (s.reg x).toNat = (s.reg y).toNat then s.pc + 2 else s.pc } ∧
    exec (.sner x y d) s = .next { s with pc := if (s.reg x).toNat ≠ (s.reg y).toNat then s.pc + 2 else s.pc }

/-! ### Loads and arithmetic -/

/-- LDI and ADDI, 42_alu.md R140 and R141, with their words: the literal, the sum modulo 256; no other register, so
also no flag. -/
def Obligations.ImmediateLoadAndAdd : Prop :=
  (∀ w : Word, w &&& 0xF000 = 0x6000 ↔ decodeWord w = some (.ldi (fieldX w) (fieldNN w))) ∧
  (∀ w : Word, w &&& 0xF000 = 0x7000 ↔ decodeWord w = some (.addi (fieldX w) (fieldNN w))) ∧
  ∀ (x : Nibble) (nn : Byte) (s : State),
    (∃ t, exec (.ldi x nn) s = .next t ∧ t = { s with v := t.v } ∧
      t.reg x = nn ∧ ∀ j, j ≠ x → t.reg j = s.reg j) ∧
    ∃ t, exec (.addi x nn) s = .next t ∧ t = { s with v := t.v } ∧
      (t.reg x).toNat = ((s.reg x).toNat + nn.toNat) % 256 ∧ ∀ j, j ≠ x → t.reg j = s.reg j

/-- MOV, OR, AND and XOR, 42_alu.md R142 to R145, with their words: the result bit by bit; no other register, so no
flag. -/
def Obligations.CopyAndLogicWriteOnlyVx : Prop :=
  (∀ w : Word, w &&& 0xF00F = 0x8000 ↔ decodeWord w = some (.mov (fieldX w) (fieldY w))) ∧
  (∀ w : Word, w &&& 0xF00F = 0x8001 ↔ decodeWord w = some (.or (fieldX w) (fieldY w))) ∧
  (∀ w : Word, w &&& 0xF00F = 0x8002 ↔ decodeWord w = some (.and (fieldX w) (fieldY w))) ∧
  (∀ w : Word, w &&& 0xF00F = 0x8003 ↔ decodeWord w = some (.xor (fieldX w) (fieldY w))) ∧
  ∀ (x y : Nibble) (s : State),
    (∃ t, exec (.mov x y) s = .next t ∧ t = { s with v := t.v } ∧
      t.reg x = s.reg y ∧ ∀ j, j ≠ x → t.reg j = s.reg j) ∧
    (∃ t, exec (.or x y) s = .next t ∧ t = { s with v := t.v } ∧
      (∀ b, (t.reg x).getLsbD b = ((s.reg x).getLsbD b || (s.reg y).getLsbD b)) ∧
      ∀ j, j ≠ x → t.reg j = s.reg j) ∧
    (∃ t, exec (.and x y) s = .next t ∧ t = { s with v := t.v } ∧
      (∀ b, (t.reg x).getLsbD b = ((s.reg x).getLsbD b && (s.reg y).getLsbD b)) ∧
      ∀ j, j ≠ x → t.reg j = s.reg j) ∧
    ∃ t, exec (.xor x y) s = .next t ∧ t = { s with v := t.v } ∧
      (∀ b, (t.reg x).getLsbD b = ((s.reg x).getLsbD b ^^ (s.reg y).getLsbD b)) ∧
      ∀ j, j ≠ x → t.reg j = s.reg j

/-- ADD, SUB and SUBN (42_alu.md R146, R147, R149): the result modulo 256 and the flag from both operands as they were
before anything is written. That VF = 1 is no borrow is decision D6; that with x = 0xF the flag stays is decision D5
(R152). -/
def Obligations.AddAndSubtractWriteResultThenFlag : Prop :=
  ∀ (x y : Nibble) (s : State),
    (∃ t, exec (.add x y) s = .next t ∧ t = { s with v := t.v } ∧
      (x ≠ 0xF → (t.reg x).toNat = ((s.reg x).toNat + (s.reg y).toNat) % 256) ∧
      (t.reg 0xF).toNat = (if 256 ≤ (s.reg x).toNat + (s.reg y).toNat then 1 else 0) ∧
      ∀ j, j ≠ x → j ≠ 0xF → t.reg j = s.reg j) ∧
    (∃ t, exec (.sub x y) s = .next t ∧ t = { s with v := t.v } ∧
      (x ≠ 0xF → (t.reg x).toNat = ((s.reg x).toNat + 256 - (s.reg y).toNat) % 256) ∧
      (t.reg 0xF).toNat = (if (s.reg y).toNat ≤ (s.reg x).toNat then 1 else 0) ∧
      ∀ j, j ≠ x → j ≠ 0xF → t.reg j = s.reg j) ∧
    ∃ t, exec (.subn x y) s = .next t ∧ t = { s with v := t.v } ∧
      (x ≠ 0xF → (t.reg x).toNat = ((s.reg y).toNat + 256 - (s.reg x).toNat) % 256) ∧
      (t.reg 0xF).toNat = (if (s.reg x).toNat ≤ (s.reg y).toNat then 1 else 0) ∧
      ∀ j, j ≠ x → j ≠ 0xF → t.reg j = s.reg j

/-- SHR and SHL (42_alu.md R148, R150): Vx in place by one bit, VF the bit shifted out, Vy neither read nor written
whatever y is. That with x = 0xF the flag stays is decision D5 (R152). -/
def Obligations.ShiftsMoveVxByOneBit : Prop :=
  ∀ (x y : Nibble) (s : State),
    (∃ t, exec (.shr x y) s = .next t ∧ t = { s with v := t.v } ∧
      (x ≠ 0xF → (t.reg x).toNat = (s.reg x).toNat / 2) ∧ (t.reg 0xF).toNat = (s.reg x).toNat % 2 ∧
      ∀ j, j ≠ x → j ≠ 0xF → t.reg j = s.reg j) ∧
    ∃ t, exec (.shl x y) s = .next t ∧ t = { s with v := t.v } ∧
      (x ≠ 0xF → (t.reg x).toNat = (s.reg x).toNat * 2 % 256) ∧ (t.reg 0xF).toNat = (s.reg x).toNat / 128 ∧
      ∀ j, j ≠ x → j ≠ 0xF → t.reg j = s.reg j

/-! ### Address register and memory -/

/-- LDA and ADDA, 43_index_memory.md R160 and R161, with their words: I becomes nnn, or the sum modulo 2^16; nothing
else changes, so no flag and no fault. -/
def Obligations.AddressRegisterLoadAndAdd : Prop :=
  (∀ w : Word, w &&& 0xF000 = 0xA000 ↔ decodeWord w = some (.lda (fieldNNN w))) ∧
  (∀ w : Word, w &&& 0xF0FF = 0xF01E ↔ decodeWord w = some (.adda (fieldX w))) ∧
  (∀ (nnn : Addr12) (s : State), ∃ t, exec (.lda nnn) s = .next t ∧ t = { s with i := t.i } ∧
    t.i.toNat = nnn.toNat) ∧
  ∀ (x : Nibble) (s : State), ∃ t, exec (.adda x) s = .next t ∧ t = { s with i := t.i } ∧
    t.i.toNat = (s.i.toNat + (s.reg x).toNat) % 65536

/-- FONT (43_index_memory.md R162): I becomes 0x50 + 5 * Vx, on the whole byte (decision D22); no memory is
touched. -/
def Obligations.FontPointsAtTheGlyph : Prop :=
  ∀ (x : Nibble) (s : State), ∃ t, exec (.font x) s = .next t ∧ t = { s with i := t.i } ∧
    t.i.toNat = 0x50 + 5 * (s.reg x).toNat

/-- BCD (43_index_memory.md R163), with its words: hundreds, tens and ones at I, I + 1, I + 2, every other byte as
before; out of range exactly when I is 4094 or more, and then no byte is written (decisions D4, D13 and D14); I and Vx
are unchanged. -/
def Obligations.BcdStoresThreeDigits : Prop :=
  (∀ w : Word, w &&& 0xF0FF = 0xF033 ↔ decodeWord w = some (.bcd (fieldX w))) ∧
  ∀ (x : Nibble) (s : State),
    (s.dataBase ≤ 4093 → ∃ t, exec (.bcd x) s = .next t ∧ t = { s with mem := t.mem } ∧
      (t.byteAt s.dataBase).toNat = (s.reg x).toNat / 100 ∧
      (t.byteAt (s.dataBase + 1)).toNat = (s.reg x).toNat / 10 % 10 ∧
      (t.byteAt (s.dataBase + 2)).toNat = (s.reg x).toNat % 10 ∧
      ∀ a, a < s.dataBase ∨ s.dataBase + 3 ≤ a → t.byteAt a = s.byteAt a) ∧
    (4094 ≤ s.dataBase → ∃ t, exec (.bcd x) s = .next t ∧ t = { s with run := t.run, fault := t.fault } ∧
      t.run = .halted ∧ t.fault.cause = .memoryAddressOutOfRange ∧ t.fault.info.toNat = max s.i.toNat 4096)

/-- STM (43_index_memory.md R164): V0 to Vx at I to I + x, every other byte as before. That Vx is included and I
unchanged is decision D19; the range check before the first byte is decision D13. -/
def Obligations.StmStoresFirstRegisters : Prop :=
  ∀ (x : Nibble) (s : State), s.dataBase + x.toNat ≤ 4095 →
    ∃ t, exec (.stm x) s = .next t ∧ t = { s with mem := t.mem } ∧
      (∀ k : Nibble, k.toNat ≤ x.toNat → t.byteAt (s.dataBase + k.toNat) = s.reg k) ∧
      ∀ a, a < s.dataBase ∨ s.dataBase + x.toNat < a → t.byteAt a = s.byteAt a

/-- LDM (43_index_memory.md R165): V0 to Vx from I to I + x, the registers above Vx as before. That Vx is included and
I unchanged is decision D19; the range check is decision D13. -/
def Obligations.LdmLoadsFirstRegisters : Prop :=
  ∀ (x : Nibble) (s : State), s.dataBase + x.toNat ≤ 4095 →
    ∃ t, exec (.ldm x) s = .next t ∧ t = { s with v := t.v } ∧
      ∀ j : Nibble, t.reg j = if j.toNat ≤ x.toNat then s.byteAt (s.dataBase + j.toNat) else s.reg j

/-- Store and load back (43_index_memory.md R165's property; decision D19): V0 to Vx come back, whatever they have
been put to between. -/
def Obligations.LdmRestoresWhatStmStored : Prop :=
  ∀ (x : Nibble) (s t u : State), s.dataBase + x.toNat ≤ 4095 → exec (.stm x) s = .next t →
    u.mem = t.mem → u.i = t.i →
    ∃ w, exec (.ldm x) u = .next w ∧ ∀ j : Nibble, w.reg j = if j.toNat ≤ x.toNat then s.reg j else u.reg j

/-! ### Random, keys, timers -/

/-- RND (44_random_input_timer.md R170): each bit of Vx is the random input's where nn has a 1, and 0 elsewhere, for
every value of the input (decision D29: it is free). -/
def Obligations.RandomByteIsMasked : Prop :=
  ∀ (x : Nibble) (nn : Byte) (s : State), ∃ t, exec (.rnd x nn) s = .next t ∧ t = { s with v := t.v } ∧
    (∀ b, (t.reg x).getLsbD b = (s.rnd.getLsbD b && nn.getLsbD b)) ∧ ∀ j, j ≠ x → t.reg j = s.reg j

/-- SKP and SKNP (44_random_input_timer.md R171, R172): the skip on the key in Vx of this cycle's snapshot. A code
above 0xF is never pressed by decision D17 (R177). -/
def Obligations.KeySkipsTestTheSnapshot : Prop :=
  ∀ (x : Nibble) (s : State),
    exec (.skp x) s = .next
      { s with pc := if (s.reg x).toNat ≤ 15 ∧ s.keys.getLsbD (s.reg x).toNat = true then s.pc + 2 else s.pc } ∧
    exec (.sknp x) s = .next
      { s with pc := if (s.reg x).toNat ≤ 15 ∧ s.keys.getLsbD (s.reg x).toNat = true then s.pc else s.pc + 2 }

/-- WKEY (44_random_input_timer.md R174): with no key held pc goes back by 2 and nothing else changes; with keys held
a held code is loaded, the least one by decision D18. -/
def Obligations.KeyWaitRewindsOrLoadsTheLeastKey : Prop :=
  ∀ (x : Nibble) (s : State),
    (s.keys = 0 → exec (.wkey x) s = .next { s with pc := s.pc - 2 }) ∧
    (s.keys ≠ 0 → ∃ t k, exec (.wkey x) s = .next t ∧ t = { s with v := t.v } ∧ k < 16 ∧
      s.keys.getLsbD k = true ∧ (∀ j < k, s.keys.getLsbD j = false) ∧
      (t.reg x).toNat = k ∧ ∀ j, j ≠ x → t.reg j = s.reg j)

/-- LDDT, STDT and STST (44_random_input_timer.md R173, R175, R176), with their words: DT to Vx, Vx to DT, Vx to ST,
nothing else. n ticks after STDT the delay timer holds Vx less n, not below 0; n ticks after STST `sound_active` is 1
exactly when n is less than Vx (60_exceptions.md R212, R215). -/
def Obligations.TimerInstructionsMoveOneByte : Prop :=
  (∀ w : Word, w &&& 0xF0FF = 0xF007 ↔ decodeWord w = some (.lddt (fieldX w))) ∧
  (∀ w : Word, w &&& 0xF0FF = 0xF015 ↔ decodeWord w = some (.stdt (fieldX w))) ∧
  (∀ w : Word, w &&& 0xF0FF = 0xF018 ↔ decodeWord w = some (.stst (fieldX w))) ∧
  ∀ (x : Nibble) (s : State),
    (∃ t, exec (.lddt x) s = .next t ∧ t = { s with v := t.v } ∧
      t.reg x = s.dt ∧ ∀ j, j ≠ x → t.reg j = s.reg j) ∧
    (∃ t, exec (.stdt x) s = .next t ∧ t = { s with dt := s.reg x } ∧
      ∀ n, (t.ticks n).dt.toNat = (s.reg x).toNat - n) ∧
    ∃ t, exec (.stst x) s = .next t ∧ t = { s with st := s.reg x } ∧
      ∀ n, (t.ticks n).soundActive = true ↔ n < (s.reg x).toNat

/-! ### Display -/

/-- CLS (45_display.md R180), with its words, the second digit of which is not looked at by decision D1: every pixel
off, nothing else changes, so also not VF. -/
def Obligations.ClearTurnsEveryPixelOff : Prop :=
  (∀ w : Word, w &&& 0xF0FF = 0x00E0 ↔ decodeWord w = some (.cls (fieldX w))) ∧
  ∀ (d : Nibble) (s : State), ∃ t, exec (.cls d) s = .next t ∧ t = { s with disp := t.disp } ∧
    ∀ px py, Display.get t.disp px py = false

/-- DRW (45_display.md R181): every pixel is inverted exactly when a 1 bit of the sprite lies over it, and VF is 1
exactly when such a pixel was set. The modulo of the start, the clip, the bit order and the check of all n bytes are
decision D21 (R182, R184). -/
def Obligations.DrawXorsTheSpriteAndFlagsCollision : Prop :=
  ∀ (x y n : Nibble) (s : State), n = 0 ∨ s.dataBase + n.toNat ≤ 4096 →
    ∃ t, exec (.drw x y n) s = .next t ∧ t = { s with disp := t.disp, v := t.v } ∧
      (∀ px py, px < 64 → py < 32 → Display.get t.disp px py =
        (Display.get s.disp px py ^^
          spriteLit s ((s.reg x).toNat % 64) ((s.reg y).toNat % 32) n.toNat px py)) ∧
      (t.reg 0xF = 0 ∨ t.reg 0xF = 1) ∧
      (t.reg 0xF = 1 ↔ ∃ px py, px < 64 ∧ py < 32 ∧ Display.get s.disp px py = true ∧
        spriteLit s ((s.reg x).toNat % 64) ((s.reg y).toNat % 32) n.toNat px py = true) ∧
      ∀ j, j ≠ 0xF → t.reg j = s.reg j

/-- Drawing the same sprite twice at the same place restores the display, and the second draw sets VF exactly when
some visible 1 bit of the sprite lies over a pixel that was off before the first (45_display.md R181's pseudocode,
decision D21; log 29: R181's corner case says "if the sprite has any visible 1 bit", which is so on a display that is
off there). The coordinates are not in VF, which the first draw writes. -/
def Obligations.SecondDrawRestoresTheDisplay : Prop :=
  ∀ (x y n : Nibble) (s t u : State), x ≠ 0xF → y ≠ 0xF → (n = 0 ∨ s.dataBase + n.toNat ≤ 4096) →
    exec (.drw x y n) s = .next t → exec (.drw x y n) t = .next u →
    u.disp = s.disp ∧
    (u.reg 0xF = 1 ↔ ∃ px py, px < 64 ∧ py < 32 ∧ Display.get s.disp px py = false ∧
      spriteLit s ((s.reg x).toNat % 64) ((s.reg y).toNat % 32) n.toNat px py = true)

/-! ### All instructions -/

/-- The write sets of 10_state.md R43 (the spec derives them from its rules): an instruction changes nothing outside
its row; RUN and FAULT only by a raise; and no instruction changes the inputs or the host's records. -/
def Obligations.InstructionsWriteOnlyTheirWriteSet : Prop :=
  ∀ (i : Instr) (s t : State), exec i s = .next t →
    (∀ j, writesReg i j = false → t.reg j = s.reg j) ∧
    (writesI i = false → t.i = s.i) ∧
    (writesPc i = false → t.pc = s.pc) ∧
    (writesSp i = false → t.sp = s.sp) ∧
    (∀ k, writesSlot i s k = false → t.slot k = s.slot k) ∧
    ((∀ x, i ≠ .stdt x) → t.dt = s.dt) ∧
    ((∀ x, i ≠ .stst x) → t.st = s.st) ∧
    (writesDisp i = false → t.disp = s.disp) ∧
    (∀ a, a < s.dataBase ∨ s.dataBase + storedBytes i ≤ a → t.byteAt a = s.byteAt a) ∧
    (accessFaults i s = false → t.run = s.run ∧ t.fault = s.fault) ∧
    (accessFaults i s = true → t = { s with run := t.run, fault := t.fault }) ∧
    t.keys = s.keys ∧ t.rnd = s.rnd ∧ t.inputs = s.inputs ∧ t.clock = s.clock

/-- The inputs reach the machine through SKP, SKNP, WKEY and RND alone (00_scope.md R7; 10_state.md R35, R36): for any
other instruction, another snapshot or random byte gives the same next state with that snapshot or byte in it. -/
def Obligations.OnlyKeyAndRandomInstructionsSeeInputs : Prop :=
  ∀ (i : Instr) (s t : State), exec i s = .next t →
    (readsKeys i = false → ∀ keys, exec i { s with keys := keys } = .next { t with keys := keys }) ∧
    ((∀ x nn, i ≠ .rnd x nn) → ∀ rnd, exec i { s with rnd := rnd } = .next { t with rnd := rnd })

/-- Only LDDT reads DT, no instruction reads ST, and none reads RUN or FAULT (10_state.md R29, R30, R33): with another
value there, the next state differs in that field alone. -/
def Obligations.TimersAndLatchAreReadByNoOtherInstruction : Prop :=
  ∀ (i : Instr) (s t : State), exec i s = .next t →
    ((∀ x, i ≠ .lddt x) → ∀ b, ∃ u, exec i { s with dt := b } = .next u ∧ u = { t with dt := u.dt }) ∧
    (∀ b, ∃ u, exec i { s with st := b } = .next u ∧ u = { t with st := u.st }) ∧
    ∀ r f, ∃ u, exec i { s with run := r, fault := f } = .next u ∧ u = { t with run := u.run, fault := u.fault }

/-! ### The invariant -/

/-- Every step keeps the invariant: memory stays canonical and inside 0 to 4095 (20_memory.md R69), pc never exceeds
0x10FE nor a return address 4096 (10_state.md R26), and RUN and FAULT agree as 60_exceptions.md R204 lists (decisions
D12 to D14). The canonical form is the model's own (log 13). -/
def Obligations.StepKeepsTheInvariant : Prop :=
  ∀ s t : State, s.Inv → step s = .next t → t.Inv

/-- So does every move of the outside world: reset with any image, tick, and a cycle under any inputs. -/
def Obligations.EveryMoveKeepsTheInvariant : Prop :=
  ∀ (m : HostMove) (s t : State), s.Inv → applyMove m s = .next t → t.Inv

/-- The invariant holds after reset. -/
def Obligations.ResetMeetsTheInvariant : Prop := State.reset.Inv

/-! ### The host's writes -/

/-- The host writes memory only with reset (20_memory.md R75, decision D25; 60_exceptions.md R221): a tick changes no
byte, and a cycle changes none outside the bytes that its own instruction stores at I; one that takes a fault, or that
begins HALTED, changes none at all (decision D13). -/
def Obligations.OnlyResetAndStoresWriteMemory : Prop :=
  ∀ s : State,
    (∀ t, applyMove .tick s = .next t → t.mem = s.mem) ∧
    ∀ (keys : Word) (rnd : Byte) (t : State), applyMove (.cycle keys rnd) s = .next t →
      (t.run = .halted → t.mem = s.mem) ∧
      ∀ a, t.byteAt a ≠ s.byteAt a → ∃ i, s.run = .running ∧ s.fetchWord.bind decodeWord = some i ∧
        s.dataBase ≤ a ∧ a < s.dataBase + storedBytes i
end

