-- ==== Sys2Proof/Laws/Decode.lean ====
section
/-! SUPPORT. The fields of a word that is built from fields, and of a byte pair. -/

namespace Sys2Proof

theorem fieldT_toNat (w : Word) : (fieldT w).toNat = w.toNat / 4096 := by
  have := w.isLt
  simp only [fieldT, BitVec.extractLsb'_toNat, Nat.shiftRight_eq_div_pow]; omega

theorem fieldX_toNat (w : Word) : (fieldX w).toNat = w.toNat / 256 % 16 := by
  simp only [fieldX, BitVec.extractLsb'_toNat, Nat.shiftRight_eq_div_pow]

theorem fieldY_toNat (w : Word) : (fieldY w).toNat = w.toNat / 16 % 16 := by
  simp only [fieldY, BitVec.extractLsb'_toNat, Nat.shiftRight_eq_div_pow]

theorem fieldN_toNat (w : Word) : (fieldN w).toNat = w.toNat % 16 := by
  simp only [fieldN, BitVec.extractLsb'_toNat, Nat.shiftRight_eq_div_pow]; omega

theorem fieldNN_toNat (w : Word) : (fieldNN w).toNat = w.toNat % 256 := by
  simp only [fieldNN, BitVec.extractLsb'_toNat, Nat.shiftRight_eq_div_pow]; omega

theorem fieldNNN_toNat (w : Word) : (fieldNNN w).toNat = w.toNat % 4096 := by
  simp only [fieldNNN, BitVec.extractLsb'_toNat, Nat.shiftRight_eq_div_pow]; omega

theorem wordOfDigits_toNat (t x y n : Nibble) :
    (wordOfDigits t x y n).toNat = t.toNat * 4096 + x.toNat * 256 + y.toNat * 16 + n.toNat := by
  have := t.isLt; have := x.isLt; have := y.isLt; have := n.isLt
  simp only [wordOfDigits, BitVec.toNat_ofNat]; omega

theorem wordOfByteForm_toNat (t x : Nibble) (nn : Byte) :
    (wordOfByteForm t x nn).toNat = t.toNat * 4096 + x.toNat * 256 + nn.toNat := by
  have := t.isLt; have := x.isLt; have := nn.isLt
  simp only [wordOfByteForm, BitVec.toNat_ofNat]; omega

theorem wordOfAddrForm_toNat (t : Nibble) (nnn : Addr12) :
    (wordOfAddrForm t nnn).toNat = t.toNat * 4096 + nnn.toNat := by
  have := t.isLt; have := nnn.isLt
  simp only [wordOfAddrForm, BitVec.toNat_ofNat]; omega

/-- The digits of a word built from four digits. -/
@[simp] theorem fields_wordOfDigits (t x y n : Nibble) :
    fieldT (wordOfDigits t x y n) = t ∧ fieldX (wordOfDigits t x y n) = x ∧
      fieldY (wordOfDigits t x y n) = y ∧ fieldN (wordOfDigits t x y n) = n := by
  have := t.isLt; have := x.isLt; have := y.isLt; have := n.isLt
  refine ⟨?_, ?_, ?_, ?_⟩ <;> apply BitVec.eq_of_toNat_eq
  · rw [fieldT_toNat, wordOfDigits_toNat]; omega
  · rw [fieldX_toNat, wordOfDigits_toNat]; omega
  · rw [fieldY_toNat, wordOfDigits_toNat]; omega
  · rw [fieldN_toNat, wordOfDigits_toNat]; omega

/-- The fields of a word built from two digits and a byte. -/
@[simp] theorem fields_wordOfByteForm (t x : Nibble) (nn : Byte) :
    fieldT (wordOfByteForm t x nn) = t ∧ fieldX (wordOfByteForm t x nn) = x ∧
      fieldNN (wordOfByteForm t x nn) = nn := by
  have := t.isLt; have := x.isLt; have := nn.isLt
  refine ⟨?_, ?_, ?_⟩ <;> apply BitVec.eq_of_toNat_eq
  · rw [fieldT_toNat, wordOfByteForm_toNat]; omega
  · rw [fieldX_toNat, wordOfByteForm_toNat]; omega
  · rw [fieldNN_toNat, wordOfByteForm_toNat]; omega

/-- The fields of a word built from a digit and an address literal. -/
@[simp] theorem fields_wordOfAddrForm (t : Nibble) (nnn : Addr12) :
    fieldT (wordOfAddrForm t nnn) = t ∧ fieldNNN (wordOfAddrForm t nnn) = nnn := by
  have := t.isLt; have := nnn.isLt
  refine ⟨?_, ?_⟩ <;> apply BitVec.eq_of_toNat_eq
  · rw [fieldT_toNat, wordOfAddrForm_toNat]; omega
  · rw [fieldNNN_toNat, wordOfAddrForm_toNat]; omega

/-- A word is its four digits (30_encoding.md R91). -/
theorem wordOfDigits_fields (w : Word) : wordOfDigits (fieldT w) (fieldX w) (fieldY w) (fieldN w) = w := by
  apply BitVec.eq_of_toNat_eq
  rw [wordOfDigits_toNat, fieldT_toNat, fieldX_toNat, fieldY_toNat, fieldN_toNat]; omega

/-- Four digits in a row, as bits. -/
theorem wordOfDigits_append (t x y n : Nibble) :
    wordOfDigits t x y n = (t ++ x ++ y ++ n : BitVec (4 + 4 + 4 + 4)) := by
  apply BitVec.eq_of_toNat_eq
  have hx := x.isLt; have hy := y.isLt; have hn := n.isLt
  rw [wordOfDigits_toNat, BitVec.toNat_append, BitVec.toNat_append, BitVec.toNat_append,
    ← Nat.shiftLeft_add_eq_or_of_lt hx, ← Nat.shiftLeft_add_eq_or_of_lt hy, ← Nat.shiftLeft_add_eq_or_of_lt hn]
  simp only [Nat.shiftLeft_eq]; omega

/-- A mask works on a word digit by digit. -/
theorem and_wordOfDigits (t x y n t' x' y' n' : Nibble) :
    wordOfDigits t x y n &&& wordOfDigits t' x' y' n' = wordOfDigits (t &&& t') (x &&& x') (y &&& y') (n &&& n') := by
  simp only [wordOfDigits_append]
  rw [← BitVec.and_append, ← BitVec.and_append, ← BitVec.and_append]

theorem wordOfDigits_inj (t x y n t' x' y' n' : Nibble) :
    wordOfDigits t x y n = wordOfDigits t' x' y' n' ↔ t = t' ∧ x = x' ∧ y = y' ∧ n = n' := by
  refine ⟨fun h => ?_, by rintro ⟨rfl, rfl, rfl, rfl⟩; rfl⟩
  have f := fields_wordOfDigits t x y n
  rw [h] at f
  have f' := fields_wordOfDigits t' x' y' n'
  exact ⟨f.1.symm.trans f'.1, f.2.1.symm.trans f'.2.1, f.2.2.1.symm.trans f'.2.2.1, f.2.2.2.symm.trans f'.2.2.2⟩

/-- The low byte is its two digits. -/
theorem fieldNN_eq_iff (w : Word) (hi lo : Nibble) :
    fieldNN w = BitVec.ofNat 8 (hi.toNat * 16 + lo.toNat) ↔ fieldY w = hi ∧ fieldN w = lo := by
  have := hi.isLt; have := lo.isLt
  simp only [← BitVec.toNat_inj, fieldNN_toNat, fieldY_toNat, fieldN_toNat, BitVec.toNat_ofNat]; omega

theorem nibble_and_all (a : Nibble) : a &&& 15#4 = a := by revert a; decide

/-- A word under the masks of the opcode map (30_encoding.md R95): the family alone. -/
theorem and_F000_eq_iff (w : Word) (t : Nibble) : w &&& 0xF000 = wordOfDigits t 0 0 0 ↔ fieldT w = t := by
  conv_lhs => rw [← wordOfDigits_fields w, show (0xF000 : Word) = wordOfDigits 0xF 0 0 0 from rfl,
    and_wordOfDigits, wordOfDigits_inj]
  simp [nibble_and_all]

/-- The family and the last digit. -/
theorem and_F00F_eq_iff (w : Word) (t n : Nibble) :
    w &&& 0xF00F = wordOfDigits t 0 0 n ↔ fieldT w = t ∧ fieldN w = n := by
  conv_lhs => rw [← wordOfDigits_fields w, show (0xF00F : Word) = wordOfDigits 0xF 0 0 0xF from rfl,
    and_wordOfDigits, wordOfDigits_inj]
  simp [nibble_and_all]

/-- The family and the low byte. -/
theorem and_F0FF_eq_iff (w : Word) (t y n : Nibble) :
    w &&& 0xF0FF = wordOfDigits t 0 y n ↔ fieldT w = t ∧ fieldY w = y ∧ fieldN w = n := by
  conv_lhs => rw [← wordOfDigits_fields w, show (0xF0FF : Word) = wordOfDigits 0xF 0 0xF 0xF from rfl,
    and_wordOfDigits, wordOfDigits_inj]
  simp [nibble_and_all]

end Sys2Proof
end

