-- ==== Sys2Proof/Laws/Display.lean ====
section
/-! SUPPORT. The laws of one pixel: toggling, clearing, and one bit of the draw loop. -/

namespace Sys2Proof.Machine

/-- A toggle inverts its own pixel when it is on the grid, and no other. -/
theorem Display.get_toggle (d : Display) (x y px py : Nat) (hx : x < 64) (hy : y < 32) :
    Display.get (Display.toggle d x y) px py =
      if px = x ∧ py = y then !Display.get d px py else Display.get d px py := by
  by_cases hp : px < 64 ∧ py < 32
  · by_cases hpy : py = y
    · subst hpy
      by_cases hpx : px = x
      · subst hpx; simp [Display.get, Display.toggle, hx, hy]
      · simp [Display.get, Display.toggle, hx, hy, hp, hpx, Ne.symm hpx]
    · simp [Display.get, Display.toggle, hx, hy, hp, hpy, Ne.symm hpy]
  · have : ¬(px = x ∧ py = y) := fun h => hp ⟨h.1 ▸ hx, h.2 ▸ hy⟩
    simp [Display.get, hp, this]

/-- Every pixel of the blank display is off. -/
@[simp] theorem Display.get_blank (px py : Nat) : Display.get Display.blank px py = false := by
  simp [Display.get, Display.blank]

/-- Everything one bit of the draw loop can do: clipped or 0, nothing; else its pixel is inverted, and a pixel that
was set is a collision (45_display.md R181). -/
theorem Canvas.drawBit_cases (c : Canvas) (x y : Nat) (bit : Bool) :
    (¬(x < 64 ∧ y < 32 ∧ bit = true) ∧ c.drawBit x y bit = c) ∨
      ((x < 64 ∧ y < 32 ∧ bit = true) ∧
        c.drawBit x y bit = { disp := Display.toggle c.disp x y, coll := c.coll || Display.get c.disp x y }) := by
  by_cases h : x < 64 ∧ y < 32 ∧ bit = true
  · exact .inr ⟨h, if_pos h⟩
  · exact .inl ⟨h, if_neg h⟩

end Sys2Proof.Machine
end

