-- ==== Sys2Proof/Laws/Memory.lean ====
section
/-! SUPPORT. The laws of memory: a byte read after a write, and the canonical form that every operation keeps. -/

namespace Sys2Proof.Machine.Memory

@[simp] theorem get_nil (a : Nat) : get [] a = memDefault a := rfl

theorem get_cons (c : Host.Cell) (m : Memory) (a : Nat) :
    get (c :: m) a = if a = c.1 then c.2 else get m a := rfl

/-! ### Reading after a write -/

theorem get_erase (m : Memory) (a b : Nat) : get (erase m a) b = if b = a then memDefault a else get m b := by
  induction m with
  | nil => simp only [erase, List.filter_nil, get_nil]; split <;> simp_all
  | cons c m ih =>
    simp only [erase] at ih ⊢
    by_cases hc : c.1 = a
    · simp only [List.filter_cons, hc, bne_self_eq_false, Bool.false_eq_true, if_false, ih, get_cons]
      split <;> simp_all
    · have : (c.1 != a) = true := by simpa using hc
      simp only [List.filter_cons, this, if_true, get_cons, ih]
      by_cases hb : b = c.1 <;> simp_all

theorem get_insert (m : Memory) (a b : Nat) (v : Byte) (h : ∀ c ∈ m, c.1 ≠ a) :
    get (insert m a v) b = if b = a then v else get m b := by
  induction m with
  | nil => rfl
  | cons c m ih =>
    have hc : c.1 ≠ a := h c (by simp)
    have ih := ih fun d hd => h d (by simp [hd])
    simp only [insert]
    split
    · rfl
    · simp only [get_cons, ih]
      by_cases hb : b = c.1 <;> simp_all

theorem not_mem_erase (m : Memory) (a : Nat) : ∀ c ∈ erase m a, c.1 ≠ a := by
  intro c hc
  simpa using (List.mem_filter.1 hc).2

/-- A byte that was written reads as written, and every other byte reads as before. -/
theorem get_set (m : Memory) (a b : Nat) (v : Byte) : get (set m a v) b = if b = a then v else get m b := by
  simp only [set]
  split
  · rename_i h; rw [get_erase, h]
  · rw [get_insert _ _ _ _ (not_mem_erase m a), get_erase]; split <;> rfl

/-- A byte of a write of several bytes reads as written, and every other byte reads as before. -/
theorem get_writeBytes (bs : List Byte) (m : Memory) (a b : Nat) :
    get (writeBytes m a bs) b = if a ≤ b ∧ b < a + bs.length then bs.getD (b - a) 0 else get m b := by
  induction bs generalizing m a with
  | nil => rw [writeBytes, if_neg (by simp only [List.length_nil]; omega)]
  | cons v bs ih =>
    rw [writeBytes, ih, get_set]
    simp only [List.length_cons]
    by_cases h : b = a
    · subst h; simp
    · by_cases h2 : a + 1 ≤ b ∧ b < a + 1 + bs.length
      · rw [if_pos h2, if_pos (by omega), show b - a = b - (a + 1) + 1 by omega]; simp
      · rw [if_neg h2, if_neg h, if_neg (by omega)]

@[simp] theorem length_readBytes (m : Memory) (a n : Nat) : (readBytes m a n).length = n := by simp [readBytes]

theorem getD_readBytes (m : Memory) (a n k : Nat) (d : Byte) :
    (readBytes m a n).getD k d = if k < n then get m (a + k) else d := by
  by_cases h : k < n <;> simp [readBytes, h]

/-! ### The canonical form -/

/-- Strictly rising addresses, said of all pairs. -/
theorem rising_iff (m : Memory) : rising m = true ↔ m.Pairwise (fun c d => c.1 < d.1) := by
  induction m with
  | nil => simp [rising]
  | cons c m ih =>
    cases m with
    | nil => simp [rising]
    | cons d m =>
      rw [rising, Bool.and_eq_true, ih, decide_eq_true_eq, List.pairwise_cons (a := c)]
      refine ⟨fun ⟨h, hp⟩ => ⟨fun e he => ?_, hp⟩, fun ⟨h, hp⟩ => ⟨h d (by simp), hp⟩⟩
      rcases List.mem_cons.1 he with rfl | he
      · exact h
      · exact Nat.lt_trans h ((List.pairwise_cons.1 hp).1 e he)

theorem wf_iff (m : Memory) : wf m = true ↔ m.Pairwise (fun c d => c.1 < d.1) ∧ ∀ c ∈ m, cellOk c = true := by
  simp [wf, rising_iff]

theorem wf_nil : wf [] = true := rfl

theorem wf_erase (m : Memory) (a : Nat) (h : wf m = true) : wf (erase m a) = true := by
  rw [wf_iff] at h ⊢
  exact ⟨h.1.filter _, fun c hc => h.2 c (List.mem_filter.1 hc).1⟩

theorem mem_insert (m : Memory) (a : Nat) (v : Byte) (c : Host.Cell) : c ∈ insert m a v ↔ c = (a, v) ∨ c ∈ m := by
  induction m with
  | nil => simp [insert]
  | cons d m ih =>
    simp only [insert]
    split
    · simp
    · simp only [List.mem_cons, ih]; tauto

theorem pairwise_insert (m : Memory) (a : Nat) (v : Byte) (h : m.Pairwise (fun c d => c.1 < d.1))
    (ha : ∀ c ∈ m, c.1 ≠ a) : (insert m a v).Pairwise (fun c d => c.1 < d.1) := by
  induction m with
  | nil => simp [insert]
  | cons d m ih =>
    have hd := List.pairwise_cons.1 h
    have hda : d.1 ≠ a := ha d (by simp)
    simp only [insert]
    split
    · rename_i hlt
      refine List.pairwise_cons.2 ⟨fun c hc => ?_, h⟩
      rcases List.mem_cons.1 hc with rfl | hc
      · exact hlt
      · exact Nat.lt_trans hlt (hd.1 c hc)
    · refine List.pairwise_cons.2 ⟨fun c hc => ?_, ih hd.2 fun c hc => ha c (by simp [hc])⟩
      rcases (mem_insert m a v c).1 hc with rfl | hc
      · simp only; omega
      · exact hd.1 c hc

/-- A write inside the memory keeps the canonical form. -/
theorem wf_set (m : Memory) (a : Nat) (v : Byte) (h : wf m = true) (ha : a < Config.memSize) :
    wf (set m a v) = true := by
  simp only [set]
  split
  · exact wf_erase m a h
  · rename_i hv
    have he := (wf_iff _).1 (wf_erase m a h)
    rw [wf_iff]
    refine ⟨pairwise_insert _ a v he.1 (not_mem_erase m a), fun c hc => ?_⟩
    rcases (mem_insert _ a v c).1 hc with rfl | hc
    · simp [cellOk, ha, hv]
    · exact he.2 c hc

/-- A write of several bytes inside the memory keeps the canonical form. -/
theorem wf_writeBytes (bs : List Byte) (m : Memory) (a : Nat) (h : wf m = true)
    (ha : a + bs.length ≤ Config.memSize) : wf (writeBytes m a bs) = true := by
  induction bs generalizing m a with
  | nil => exact h
  | cons v bs ih =>
    simp only [List.length_cons] at ha
    exact ih _ _ (wf_set m a v h (by omega)) (by omega)

/-- An address that no cell lists reads as its reset contents. -/
theorem get_of_not_mem (m : Memory) (a : Nat) (h : ∀ c ∈ m, c.1 ≠ a) : get m a = memDefault a := by
  induction m with
  | nil => rfl
  | cons c m ih =>
    rw [get_cons, if_neg (Ne.symm (h c (by simp)))]
    exact ih fun d hd => h d (by simp [hd])

/-! ### Ranges -/

theorem inMemory_iff (a n : Nat) : inMemory a n = true ↔ n = 0 ∨ a + n ≤ 4096 := by
  rw [inMemory, Bool.or_eq_true, beq_iff_eq, decide_eq_true_eq]

end Sys2Proof.Machine.Memory
end

