-- ==== Sys2Proof/Laws/State.lean ====
section
/-! SUPPORT. One lemma for each field of State under each update, true by rfl, so that no proof unfolds a record
update; and the composed updates in terms of these. -/

namespace Sys2Proof.Machine.State

variable (s : State)


/-! ### setReg -/

@[simp] theorem setReg_v (r : Nibble) (b : Byte) : (s.setReg r b).v = s.v.set r.toNat b r.isLt := rfl
@[simp] theorem setReg_i (r : Nibble) (b : Byte) : (s.setReg r b).i = s.i := rfl
@[simp] theorem setReg_pc (r : Nibble) (b : Byte) : (s.setReg r b).pc = s.pc := rfl
@[simp] theorem setReg_sp (r : Nibble) (b : Byte) : (s.setReg r b).sp = s.sp := rfl
@[simp] theorem setReg_stack (r : Nibble) (b : Byte) : (s.setReg r b).stack = s.stack := rfl
@[simp] theorem setReg_dt (r : Nibble) (b : Byte) : (s.setReg r b).dt = s.dt := rfl
@[simp] theorem setReg_st (r : Nibble) (b : Byte) : (s.setReg r b).st = s.st := rfl
@[simp] theorem setReg_disp (r : Nibble) (b : Byte) : (s.setReg r b).disp = s.disp := rfl
@[simp] theorem setReg_mem (r : Nibble) (b : Byte) : (s.setReg r b).mem = s.mem := rfl
@[simp] theorem setReg_run (r : Nibble) (b : Byte) : (s.setReg r b).run = s.run := rfl
@[simp] theorem setReg_fault (r : Nibble) (b : Byte) : (s.setReg r b).fault = s.fault := rfl
@[simp] theorem setReg_keys (r : Nibble) (b : Byte) : (s.setReg r b).keys = s.keys := rfl
@[simp] theorem setReg_rnd (r : Nibble) (b : Byte) : (s.setReg r b).rnd = s.rnd := rfl
@[simp] theorem setReg_inputs (r : Nibble) (b : Byte) : (s.setReg r b).inputs = s.inputs := rfl
@[simp] theorem setReg_clock (r : Nibble) (b : Byte) : (s.setReg r b).clock = s.clock := rfl

/-! ### setFirstRegs -/

@[simp] theorem setFirstRegs_v (bs : List Byte) : (s.setFirstRegs bs).v = s.v.mapIdx (fun k old => bs.getD k old) := rfl
@[simp] theorem setFirstRegs_i (bs : List Byte) : (s.setFirstRegs bs).i = s.i := rfl
@[simp] theorem setFirstRegs_pc (bs : List Byte) : (s.setFirstRegs bs).pc = s.pc := rfl
@[simp] theorem setFirstRegs_sp (bs : List Byte) : (s.setFirstRegs bs).sp = s.sp := rfl
@[simp] theorem setFirstRegs_stack (bs : List Byte) : (s.setFirstRegs bs).stack = s.stack := rfl
@[simp] theorem setFirstRegs_dt (bs : List Byte) : (s.setFirstRegs bs).dt = s.dt := rfl
@[simp] theorem setFirstRegs_st (bs : List Byte) : (s.setFirstRegs bs).st = s.st := rfl
@[simp] theorem setFirstRegs_disp (bs : List Byte) : (s.setFirstRegs bs).disp = s.disp := rfl
@[simp] theorem setFirstRegs_mem (bs : List Byte) : (s.setFirstRegs bs).mem = s.mem := rfl
@[simp] theorem setFirstRegs_run (bs : List Byte) : (s.setFirstRegs bs).run = s.run := rfl
@[simp] theorem setFirstRegs_fault (bs : List Byte) : (s.setFirstRegs bs).fault = s.fault := rfl
@[simp] theorem setFirstRegs_keys (bs : List Byte) : (s.setFirstRegs bs).keys = s.keys := rfl
@[simp] theorem setFirstRegs_rnd (bs : List Byte) : (s.setFirstRegs bs).rnd = s.rnd := rfl
@[simp] theorem setFirstRegs_inputs (bs : List Byte) : (s.setFirstRegs bs).inputs = s.inputs := rfl
@[simp] theorem setFirstRegs_clock (bs : List Byte) : (s.setFirstRegs bs).clock = s.clock := rfl

/-! ### setI -/

@[simp] theorem setI_v (w : Word) : (s.setI w).v = s.v := rfl
@[simp] theorem setI_i (w : Word) : (s.setI w).i = w := rfl
@[simp] theorem setI_pc (w : Word) : (s.setI w).pc = s.pc := rfl
@[simp] theorem setI_sp (w : Word) : (s.setI w).sp = s.sp := rfl
@[simp] theorem setI_stack (w : Word) : (s.setI w).stack = s.stack := rfl
@[simp] theorem setI_dt (w : Word) : (s.setI w).dt = s.dt := rfl
@[simp] theorem setI_st (w : Word) : (s.setI w).st = s.st := rfl
@[simp] theorem setI_disp (w : Word) : (s.setI w).disp = s.disp := rfl
@[simp] theorem setI_mem (w : Word) : (s.setI w).mem = s.mem := rfl
@[simp] theorem setI_run (w : Word) : (s.setI w).run = s.run := rfl
@[simp] theorem setI_fault (w : Word) : (s.setI w).fault = s.fault := rfl
@[simp] theorem setI_keys (w : Word) : (s.setI w).keys = s.keys := rfl
@[simp] theorem setI_rnd (w : Word) : (s.setI w).rnd = s.rnd := rfl
@[simp] theorem setI_inputs (w : Word) : (s.setI w).inputs = s.inputs := rfl
@[simp] theorem setI_clock (w : Word) : (s.setI w).clock = s.clock := rfl

/-! ### setDt -/

@[simp] theorem setDt_v (b : Byte) : (s.setDt b).v = s.v := rfl
@[simp] theorem setDt_i (b : Byte) : (s.setDt b).i = s.i := rfl
@[simp] theorem setDt_pc (b : Byte) : (s.setDt b).pc = s.pc := rfl
@[simp] theorem setDt_sp (b : Byte) : (s.setDt b).sp = s.sp := rfl
@[simp] theorem setDt_stack (b : Byte) : (s.setDt b).stack = s.stack := rfl
@[simp] theorem setDt_dt (b : Byte) : (s.setDt b).dt = b := rfl
@[simp] theorem setDt_st (b : Byte) : (s.setDt b).st = s.st := rfl
@[simp] theorem setDt_disp (b : Byte) : (s.setDt b).disp = s.disp := rfl
@[simp] theorem setDt_mem (b : Byte) : (s.setDt b).mem = s.mem := rfl
@[simp] theorem setDt_run (b : Byte) : (s.setDt b).run = s.run := rfl
@[simp] theorem setDt_fault (b : Byte) : (s.setDt b).fault = s.fault := rfl
@[simp] theorem setDt_keys (b : Byte) : (s.setDt b).keys = s.keys := rfl
@[simp] theorem setDt_rnd (b : Byte) : (s.setDt b).rnd = s.rnd := rfl
@[simp] theorem setDt_inputs (b : Byte) : (s.setDt b).inputs = s.inputs := rfl
@[simp] theorem setDt_clock (b : Byte) : (s.setDt b).clock = s.clock := rfl

/-! ### setSt -/

@[simp] theorem setSt_v (b : Byte) : (s.setSt b).v = s.v := rfl
@[simp] theorem setSt_i (b : Byte) : (s.setSt b).i = s.i := rfl
@[simp] theorem setSt_pc (b : Byte) : (s.setSt b).pc = s.pc := rfl
@[simp] theorem setSt_sp (b : Byte) : (s.setSt b).sp = s.sp := rfl
@[simp] theorem setSt_stack (b : Byte) : (s.setSt b).stack = s.stack := rfl
@[simp] theorem setSt_dt (b : Byte) : (s.setSt b).dt = s.dt := rfl
@[simp] theorem setSt_st (b : Byte) : (s.setSt b).st = b := rfl
@[simp] theorem setSt_disp (b : Byte) : (s.setSt b).disp = s.disp := rfl
@[simp] theorem setSt_mem (b : Byte) : (s.setSt b).mem = s.mem := rfl
@[simp] theorem setSt_run (b : Byte) : (s.setSt b).run = s.run := rfl
@[simp] theorem setSt_fault (b : Byte) : (s.setSt b).fault = s.fault := rfl
@[simp] theorem setSt_keys (b : Byte) : (s.setSt b).keys = s.keys := rfl
@[simp] theorem setSt_rnd (b : Byte) : (s.setSt b).rnd = s.rnd := rfl
@[simp] theorem setSt_inputs (b : Byte) : (s.setSt b).inputs = s.inputs := rfl
@[simp] theorem setSt_clock (b : Byte) : (s.setSt b).clock = s.clock := rfl

/-! ### setDisp -/

@[simp] theorem setDisp_v (d : Display) : (s.setDisp d).v = s.v := rfl
@[simp] theorem setDisp_i (d : Display) : (s.setDisp d).i = s.i := rfl
@[simp] theorem setDisp_pc (d : Display) : (s.setDisp d).pc = s.pc := rfl
@[simp] theorem setDisp_sp (d : Display) : (s.setDisp d).sp = s.sp := rfl
@[simp] theorem setDisp_stack (d : Display) : (s.setDisp d).stack = s.stack := rfl
@[simp] theorem setDisp_dt (d : Display) : (s.setDisp d).dt = s.dt := rfl
@[simp] theorem setDisp_st (d : Display) : (s.setDisp d).st = s.st := rfl
@[simp] theorem setDisp_disp (d : Display) : (s.setDisp d).disp = d := rfl
@[simp] theorem setDisp_mem (d : Display) : (s.setDisp d).mem = s.mem := rfl
@[simp] theorem setDisp_run (d : Display) : (s.setDisp d).run = s.run := rfl
@[simp] theorem setDisp_fault (d : Display) : (s.setDisp d).fault = s.fault := rfl
@[simp] theorem setDisp_keys (d : Display) : (s.setDisp d).keys = s.keys := rfl
@[simp] theorem setDisp_rnd (d : Display) : (s.setDisp d).rnd = s.rnd := rfl
@[simp] theorem setDisp_inputs (d : Display) : (s.setDisp d).inputs = s.inputs := rfl
@[simp] theorem setDisp_clock (d : Display) : (s.setDisp d).clock = s.clock := rfl

/-! ### setPc -/

@[simp] theorem setPc_v (w : Word) : (s.setPc w).v = s.v := rfl
@[simp] theorem setPc_i (w : Word) : (s.setPc w).i = s.i := rfl
@[simp] theorem setPc_pc (w : Word) : (s.setPc w).pc = w := rfl
@[simp] theorem setPc_sp (w : Word) : (s.setPc w).sp = s.sp := rfl
@[simp] theorem setPc_stack (w : Word) : (s.setPc w).stack = s.stack := rfl
@[simp] theorem setPc_dt (w : Word) : (s.setPc w).dt = s.dt := rfl
@[simp] theorem setPc_st (w : Word) : (s.setPc w).st = s.st := rfl
@[simp] theorem setPc_disp (w : Word) : (s.setPc w).disp = s.disp := rfl
@[simp] theorem setPc_mem (w : Word) : (s.setPc w).mem = s.mem := rfl
@[simp] theorem setPc_run (w : Word) : (s.setPc w).run = s.run := rfl
@[simp] theorem setPc_fault (w : Word) : (s.setPc w).fault = s.fault := rfl
@[simp] theorem setPc_keys (w : Word) : (s.setPc w).keys = s.keys := rfl
@[simp] theorem setPc_rnd (w : Word) : (s.setPc w).rnd = s.rnd := rfl
@[simp] theorem setPc_inputs (w : Word) : (s.setPc w).inputs = s.inputs := rfl
@[simp] theorem setPc_clock (w : Word) : (s.setPc w).clock = s.clock := rfl

/-! ### pushPc -/

@[simp] theorem pushPc_v : (s.pushPc).v = s.v := rfl
@[simp] theorem pushPc_i : (s.pushPc).i = s.i := rfl
@[simp] theorem pushPc_pc : (s.pushPc).pc = s.pc := rfl
@[simp] theorem pushPc_sp : (s.pushPc).sp = s.sp + 1 := rfl
@[simp] theorem pushPc_stack : (s.pushPc).stack = s.stack.set s.sp.toNat s.pc s.sp.isLt := rfl
@[simp] theorem pushPc_dt : (s.pushPc).dt = s.dt := rfl
@[simp] theorem pushPc_st : (s.pushPc).st = s.st := rfl
@[simp] theorem pushPc_disp : (s.pushPc).disp = s.disp := rfl
@[simp] theorem pushPc_mem : (s.pushPc).mem = s.mem := rfl
@[simp] theorem pushPc_run : (s.pushPc).run = s.run := rfl
@[simp] theorem pushPc_fault : (s.pushPc).fault = s.fault := rfl
@[simp] theorem pushPc_keys : (s.pushPc).keys = s.keys := rfl
@[simp] theorem pushPc_rnd : (s.pushPc).rnd = s.rnd := rfl
@[simp] theorem pushPc_inputs : (s.pushPc).inputs = s.inputs := rfl
@[simp] theorem pushPc_clock : (s.pushPc).clock = s.clock := rfl

/-! ### popPc -/

@[simp] theorem popPc_v : (s.popPc).v = s.v := rfl
@[simp] theorem popPc_i : (s.popPc).i = s.i := rfl
@[simp] theorem popPc_pc : (s.popPc).pc = s.slot (s.sp - 1) := rfl
@[simp] theorem popPc_sp : (s.popPc).sp = s.sp - 1 := rfl
@[simp] theorem popPc_stack : (s.popPc).stack = s.stack := rfl
@[simp] theorem popPc_dt : (s.popPc).dt = s.dt := rfl
@[simp] theorem popPc_st : (s.popPc).st = s.st := rfl
@[simp] theorem popPc_disp : (s.popPc).disp = s.disp := rfl
@[simp] theorem popPc_mem : (s.popPc).mem = s.mem := rfl
@[simp] theorem popPc_run : (s.popPc).run = s.run := rfl
@[simp] theorem popPc_fault : (s.popPc).fault = s.fault := rfl
@[simp] theorem popPc_keys : (s.popPc).keys = s.keys := rfl
@[simp] theorem popPc_rnd : (s.popPc).rnd = s.rnd := rfl
@[simp] theorem popPc_inputs : (s.popPc).inputs = s.inputs := rfl
@[simp] theorem popPc_clock : (s.popPc).clock = s.clock := rfl

/-! ### raise -/

@[simp] theorem raise_v (c : FaultCause) (info fpc : Word) : (s.raise c info fpc).v = s.v := rfl
@[simp] theorem raise_i (c : FaultCause) (info fpc : Word) : (s.raise c info fpc).i = s.i := rfl
@[simp] theorem raise_pc (c : FaultCause) (info fpc : Word) : (s.raise c info fpc).pc = s.pc := rfl
@[simp] theorem raise_sp (c : FaultCause) (info fpc : Word) : (s.raise c info fpc).sp = s.sp := rfl
@[simp] theorem raise_stack (c : FaultCause) (info fpc : Word) : (s.raise c info fpc).stack = s.stack := rfl
@[simp] theorem raise_dt (c : FaultCause) (info fpc : Word) : (s.raise c info fpc).dt = s.dt := rfl
@[simp] theorem raise_st (c : FaultCause) (info fpc : Word) : (s.raise c info fpc).st = s.st := rfl
@[simp] theorem raise_disp (c : FaultCause) (info fpc : Word) : (s.raise c info fpc).disp = s.disp := rfl
@[simp] theorem raise_mem (c : FaultCause) (info fpc : Word) : (s.raise c info fpc).mem = s.mem := rfl
@[simp] theorem raise_run (c : FaultCause) (info fpc : Word) : (s.raise c info fpc).run = .halted := rfl
@[simp] theorem raise_fault (c : FaultCause) (info fpc : Word) : (s.raise c info fpc).fault = { cause := c, info := info, fpc := fpc } := rfl
@[simp] theorem raise_keys (c : FaultCause) (info fpc : Word) : (s.raise c info fpc).keys = s.keys := rfl
@[simp] theorem raise_rnd (c : FaultCause) (info fpc : Word) : (s.raise c info fpc).rnd = s.rnd := rfl
@[simp] theorem raise_inputs (c : FaultCause) (info fpc : Word) : (s.raise c info fpc).inputs = s.inputs := rfl
@[simp] theorem raise_clock (c : FaultCause) (info fpc : Word) : (s.raise c info fpc).clock = s.clock := rfl

/-! ### tick -/

@[simp] theorem tick_v : (s.tick).v = s.v := rfl
@[simp] theorem tick_i : (s.tick).i = s.i := rfl
@[simp] theorem tick_pc : (s.tick).pc = s.pc := rfl
@[simp] theorem tick_sp : (s.tick).sp = s.sp := rfl
@[simp] theorem tick_stack : (s.tick).stack = s.stack := rfl
@[simp] theorem tick_dt : (s.tick).dt = tickTimer s.dt := rfl
@[simp] theorem tick_st : (s.tick).st = tickTimer s.st := rfl
@[simp] theorem tick_disp : (s.tick).disp = s.disp := rfl
@[simp] theorem tick_mem : (s.tick).mem = s.mem := rfl
@[simp] theorem tick_run : (s.tick).run = s.run := rfl
@[simp] theorem tick_fault : (s.tick).fault = s.fault := rfl
@[simp] theorem tick_keys : (s.tick).keys = s.keys := rfl
@[simp] theorem tick_rnd : (s.tick).rnd = s.rnd := rfl
@[simp] theorem tick_inputs : (s.tick).inputs = s.inputs := rfl
@[simp] theorem tick_clock : (s.tick).clock = s.clock := rfl

/-! ### ticks -/

@[simp] theorem ticks_v (n : Nat) : (s.ticks n).v = s.v := rfl
@[simp] theorem ticks_i (n : Nat) : (s.ticks n).i = s.i := rfl
@[simp] theorem ticks_pc (n : Nat) : (s.ticks n).pc = s.pc := rfl
@[simp] theorem ticks_sp (n : Nat) : (s.ticks n).sp = s.sp := rfl
@[simp] theorem ticks_stack (n : Nat) : (s.ticks n).stack = s.stack := rfl
@[simp] theorem ticks_dt (n : Nat) : (s.ticks n).dt = timerAfter n s.dt := rfl
@[simp] theorem ticks_st (n : Nat) : (s.ticks n).st = timerAfter n s.st := rfl
@[simp] theorem ticks_disp (n : Nat) : (s.ticks n).disp = s.disp := rfl
@[simp] theorem ticks_mem (n : Nat) : (s.ticks n).mem = s.mem := rfl
@[simp] theorem ticks_run (n : Nat) : (s.ticks n).run = s.run := rfl
@[simp] theorem ticks_fault (n : Nat) : (s.ticks n).fault = s.fault := rfl
@[simp] theorem ticks_keys (n : Nat) : (s.ticks n).keys = s.keys := rfl
@[simp] theorem ticks_rnd (n : Nat) : (s.ticks n).rnd = s.rnd := rfl
@[simp] theorem ticks_inputs (n : Nat) : (s.ticks n).inputs = s.inputs := rfl
@[simp] theorem ticks_clock (n : Nat) : (s.ticks n).clock = s.clock := rfl

/-! ### sample -/

@[simp] theorem sample_v (k : Word) (b : Byte) : (s.sample k b).v = s.v := rfl
@[simp] theorem sample_i (k : Word) (b : Byte) : (s.sample k b).i = s.i := rfl
@[simp] theorem sample_pc (k : Word) (b : Byte) : (s.sample k b).pc = s.pc := rfl
@[simp] theorem sample_sp (k : Word) (b : Byte) : (s.sample k b).sp = s.sp := rfl
@[simp] theorem sample_stack (k : Word) (b : Byte) : (s.sample k b).stack = s.stack := rfl
@[simp] theorem sample_dt (k : Word) (b : Byte) : (s.sample k b).dt = s.dt := rfl
@[simp] theorem sample_st (k : Word) (b : Byte) : (s.sample k b).st = s.st := rfl
@[simp] theorem sample_disp (k : Word) (b : Byte) : (s.sample k b).disp = s.disp := rfl
@[simp] theorem sample_mem (k : Word) (b : Byte) : (s.sample k b).mem = s.mem := rfl
@[simp] theorem sample_run (k : Word) (b : Byte) : (s.sample k b).run = s.run := rfl
@[simp] theorem sample_fault (k : Word) (b : Byte) : (s.sample k b).fault = s.fault := rfl
@[simp] theorem sample_keys (k : Word) (b : Byte) : (s.sample k b).keys = k := rfl
@[simp] theorem sample_rnd (k : Word) (b : Byte) : (s.sample k b).rnd = b := rfl
@[simp] theorem sample_inputs (k : Word) (b : Byte) : (s.sample k b).inputs = s.inputs := rfl
@[simp] theorem sample_clock (k : Word) (b : Byte) : (s.sample k b).clock = s.clock := rfl

/-! ### dropInput -/

@[simp] theorem dropInput_v : (s.dropInput).v = s.v := rfl
@[simp] theorem dropInput_i : (s.dropInput).i = s.i := rfl
@[simp] theorem dropInput_pc : (s.dropInput).pc = s.pc := rfl
@[simp] theorem dropInput_sp : (s.dropInput).sp = s.sp := rfl
@[simp] theorem dropInput_stack : (s.dropInput).stack = s.stack := rfl
@[simp] theorem dropInput_dt : (s.dropInput).dt = s.dt := rfl
@[simp] theorem dropInput_st : (s.dropInput).st = s.st := rfl
@[simp] theorem dropInput_disp : (s.dropInput).disp = s.disp := rfl
@[simp] theorem dropInput_mem : (s.dropInput).mem = s.mem := rfl
@[simp] theorem dropInput_run : (s.dropInput).run = s.run := rfl
@[simp] theorem dropInput_fault : (s.dropInput).fault = s.fault := rfl
@[simp] theorem dropInput_keys : (s.dropInput).keys = s.keys := rfl
@[simp] theorem dropInput_rnd : (s.dropInput).rnd = s.rnd := rfl
@[simp] theorem dropInput_inputs : (s.dropInput).inputs = s.inputs.tail := rfl
@[simp] theorem dropInput_clock : (s.dropInput).clock = s.clock + 1 := rfl

/-! ### beginStep -/

@[simp] theorem beginStep_v : (s.beginStep).v = s.v := rfl
@[simp] theorem beginStep_i : (s.beginStep).i = s.i := rfl
@[simp] theorem beginStep_pc : (s.beginStep).pc = s.pc := rfl
@[simp] theorem beginStep_sp : (s.beginStep).sp = s.sp := rfl
@[simp] theorem beginStep_stack : (s.beginStep).stack = s.stack := rfl
@[simp] theorem beginStep_dt : (s.beginStep).dt = timerAfter s.nextInput.ticks s.dt := rfl
@[simp] theorem beginStep_st : (s.beginStep).st = timerAfter s.nextInput.ticks s.st := rfl
@[simp] theorem beginStep_disp : (s.beginStep).disp = s.disp := rfl
@[simp] theorem beginStep_mem : (s.beginStep).mem = s.mem := rfl
@[simp] theorem beginStep_run : (s.beginStep).run = s.run := rfl
@[simp] theorem beginStep_fault : (s.beginStep).fault = s.fault := rfl
@[simp] theorem beginStep_keys : (s.beginStep).keys = s.nextInput.keys := rfl
@[simp] theorem beginStep_rnd : (s.beginStep).rnd = s.nextInput.rnd := rfl
@[simp] theorem beginStep_inputs : (s.beginStep).inputs = s.inputs.tail := rfl
@[simp] theorem beginStep_clock : (s.beginStep).clock = s.clock + 1 := rfl

/-! ### Bounds of the fields by their widths (00_scope.md R5) -/

theorem i_lt : s.i.toNat < 65536 := s.i.isLt
theorem pc_lt : s.pc.toNat < 65536 := s.pc.isLt
theorem sp_lt : s.sp.toNat < 16 := s.sp.isLt
theorem dt_lt : s.dt.toNat < 256 := s.dt.isLt
theorem st_lt : s.st.toNat < 256 := s.st.isLt

/-! ### Composed updates -/

@[simp] theorem setFlag_eq (f : Byte) : s.setFlag f = s.setReg 0xF f := rfl
@[simp] theorem setRegFlag_eq (x : Nibble) (b f : Byte) : s.setRegFlag x b f = (s.setReg x b).setReg 0xF f := rfl
@[simp] theorem advancePc_eq : s.advancePc = s.setPc (s.pc + 2) := rfl
@[simp] theorem rewindPc_eq : s.rewindPc = s.setPc (s.pc - 2) := rfl
@[simp] theorem insnAddr_eq : s.insnAddr = s.pc - 2 := rfl
@[simp] theorem raiseIllegalOpcode_eq (w : Word) : s.raiseIllegalOpcode w = s.raise .illegalOpcode w (s.pc - 2) := rfl
@[simp] theorem raiseDataFault_eq :
    s.raiseDataFault = s.raise .memoryAddressOutOfRange (outOfRangeInfo s.i.toNat) (s.pc - 2) := rfl
@[simp] theorem raiseFetchFault_eq :
    s.raiseFetchFault = s.raise .memoryAddressOutOfRange (outOfRangeInfo s.pc.toNat) s.pc := rfl
@[simp] theorem afterMemop_eq : s.afterMemop = s := by simp [afterMemop, setI, Config.memopIAdvance]
@[simp] theorem skipIf_true : s.skipIf true = s.setPc (s.pc + 2) := rfl
@[simp] theorem skipIf_false : s.skipIf false = s := rfl
@[simp] theorem orDataFault_some (t : State) : s.orDataFault (some t) = t := rfl
@[simp] theorem orDataFault_none : s.orDataFault none = s.raiseDataFault := rfl

end Sys2Proof.Machine.State
end

