-- ==== Sys2Proof/Laws/HostPort.lean ====
section
/-! SUPPORT. The laws of ticks, of the start of a step, and of reset with its program load. -/

namespace Sys2Proof.Machine

/-- One tick of one timer: down by one, not below 0 (60_exceptions.md R212). -/
theorem tickTimer_toNat (t : Byte) : (tickTimer t).toNat = t.toNat - 1 := by
  simp only [tickTimer]
  split
  · rename_i h; simp [h]
  · rename_i h
    have : t.toNat ≠ 0 := fun h0 => h (BitVec.eq_of_toNat_eq (by simpa using h0))
    have := t.isLt
    have h1 : (1 : Byte).toNat = 1 := rfl
    rw [BitVec.toNat_sub, h1]
    omega

/-- `n` ticks of one timer: down by `n`, not below 0. -/
theorem timerAfter_toNat (n : Nat) (t : Byte) : (timerAfter n t).toNat = t.toNat - n := by
  induction n generalizing t with
  | zero => rfl
  | succ n ih => rw [timerAfter, ih, tickTimer_toNat]; omega

/-- `n + 1` ticks are one tick and then `n`. -/
theorem State.ticks_succ (s : State) (n : Nat) : s.ticks (n + 1) = s.tick.ticks n := rfl

/-- What the start of a step does: the ticks of the next input record, its samples, and the record is used up. -/
theorem State.beginStep_eq (s : State) :
    s.beginStep =
      { s with
        dt := timerAfter s.nextInput.ticks s.dt
        st := timerAfter s.nextInput.ticks s.st
        keys := s.nextInput.keys
        rnd := s.nextInput.rnd
        inputs := s.inputs.tail
        clock := s.clock + 1 } := rfl

/-- A given record is what the step takes. -/
theorem State.nextInput_cons (s : State) (h : HostInput) (hs : List HostInput) (e : s.inputs = h :: hs) :
    s.nextInput = h := by
  simp [State.nextInput, e]

/-- The state after reset and load is the reset state but for memory. -/
theorem State.booted_eq (image : List Byte) : State.booted image = { State.reset with mem := (State.booted image).mem } :=
  rfl

/-- With the empty image it is the reset state (70_reset_and_hazards.md R242). -/
@[simp] theorem State.booted_nil : State.booted [] = State.reset := rfl

/-- Byte k of the image stands at `0x200 + k`, every other byte at its reset value (30_encoding.md R106). -/
theorem State.byteAt_booted (image : List Byte) (a : Nat) :
    (State.booted image).byteAt a =
      if 0x200 ≤ a ∧ a < 0x200 + image.length then image.getD (a - 0x200) 0 else State.reset.byteAt a :=
  Memory.get_writeBytes image _ _ a

/-- An image that fits leaves memory in canonical form. -/
theorem State.booted_wf (image : List Byte) (h : image.length ≤ 3584) : Memory.wf (State.booted image).mem = true :=
  Memory.wf_writeBytes image _ _ Memory.wf_nil (by simp only [Config.progBase, Config.memSize]; omega)

/-- All that the reset event can do: the state after reset and load, the host's records going on, or the refusal. -/
theorem State.hostReset_eq (s : State) (image : List Byte) :
    s.hostReset image =
      if image.length ≤ 3584 then .next { State.booted image with inputs := s.inputs, clock := s.clock }
      else .fault .romTooLarge := rfl

end Sys2Proof.Machine
end

