-- ==== Sys2Proof/Laws/Ops.lean ====
section
/-! SUPPORT. For each shared operation one lemma that says everything it can do. -/

namespace Sys2Proof.Machine

/-! ### Registers -/

/-- A write to one register: that register holds the byte, every other is unchanged. -/
theorem State.reg_setReg (s : State) (r j : Nibble) (b : Byte) :
    (s.setReg r b).reg j = if j = r then b else s.reg j := by
  simp only [State.reg, State.setReg, Vector.getElem_set, BitVec.toNat_inj]
  by_cases h : r = j <;> simp [h, eq_comm]

/-- Result, then flag: with x = 0xF the flag stays (42_alu.md R152). -/
theorem State.reg_setRegFlag (s : State) (x j : Nibble) (b f : Byte) :
    (s.setRegFlag x b f).reg j = if j = 0xF then f else if j = x then b else s.reg j := by
  rw [State.setRegFlag_eq, State.reg_setReg, State.reg_setReg]

/-- The registers that the list reaches hold its bytes, every other is unchanged. -/
theorem State.reg_setFirstRegs (s : State) (bs : List Byte) (j : Nibble) :
    (s.setFirstRegs bs).reg j = bs.getD j.toNat (s.reg j) := by
  simp [State.reg, State.setFirstRegs]

@[simp] theorem State.length_firstRegs (s : State) (n : Nat) : (s.firstRegs n).length = min n 16 := by
  simp [State.firstRegs]

theorem State.getD_firstRegs (s : State) (n : Nat) (j : Nibble) (d : Byte) :
    (s.firstRegs n).getD j.toNat d = if j.toNat < n then s.reg j else d := by
  have hj : j.toNat < 16 := j.isLt
  by_cases h : j.toNat < n <;> simp [State.firstRegs, State.reg, h, hj]

theorem memopCount_eq (x : Nibble) : memopCount x = x.toNat + 1 := rfl

/-! ### Call stack -/

/-- After a push: the slot that SP named holds pc, every other is unchanged (40_flow.md R122). -/
theorem State.slot_pushPc (s : State) (k : Nibble) : s.pushPc.slot k = if k = s.sp then s.pc else s.slot k := by
  simp only [State.slot, State.pushPc, Vector.getElem_set, BitVec.toNat_inj]
  by_cases h : s.sp = k
  · simp [h]
  · simp [h, Ne.symm h]

/-- A pop changes no slot (40_flow.md R120). -/
theorem State.slot_popPc (s : State) (k : Nibble) : s.popPc.slot k = s.slot k := rfl

/-! ### Program counter -/

/-- The advance does not wrap below the top of the 16 bits (10_state.md R26). -/
theorem State.toNat_pc_add_two (s : State) (h : s.pc.toNat + 2 < 65536) : (s.pc + 2).toNat = s.pc.toNat + 2 := by
  have h2 : (2 : Word).toNat = 2 := rfl
  simp only [BitVec.toNat_add, Config.pcWidth, h2]; omega

/-- Nor does going back to the instruction's own address. -/
theorem State.toNat_pc_sub_two (s : State) (h : 2 ≤ s.pc.toNat) : (s.pc - 2).toNat = s.pc.toNat - 2 := by
  have h2 : (2 : Word).toNat = 2 := rfl
  have := s.pc_lt
  simp only [BitVec.toNat_sub, Config.pcWidth, h2]; omega

/-- SP moves modulo 16 (10_state.md R27, R28). -/
theorem State.toNat_sp_add_one (s : State) : (s.sp + 1).toNat = (s.sp.toNat + 1) % 16 := BitVec.toNat_add ..

theorem State.toNat_sp_sub_one (s : State) : (s.sp - 1).toNat = (s.sp.toNat + 15) % 16 := by
  have h1 : (1 : Nibble).toNat = 1 := rfl
  have := s.sp_lt
  simp only [BitVec.toNat_sub, Config.spWidth, h1]; omega

/-! ### Skips -/

/-- A skip changes pc only, by 2 when the condition holds (41_skip.md R134). -/
theorem State.skipIf_eq (s : State) (c : Bool) : s.skipIf c = { s with pc := if c then s.pc + 2 else s.pc } := by
  cases c <;> rfl

/-! ### Memory access -/

/-- A read answers the bytes exactly when the whole range exists (20_memory.md R62). -/
theorem State.memRead_eq (s : State) (a n : Nat) :
    s.memRead a n = if n = 0 ∨ a + n ≤ 4096 then some (Memory.readBytes s.mem a n) else none := by
  rw [State.memRead]; exact if_congr (Memory.inMemory_iff a n) rfl rfl

/-- A write answers the new state, memory alone changed, exactly when the whole range exists (20_memory.md R62). -/
theorem State.memWrite_eq (s : State) (a : Nat) (bs : List Byte) :
    s.memWrite a bs =
      if bs.length = 0 ∨ a + bs.length ≤ 4096 then some { s with mem := Memory.writeBytes s.mem a bs } else none := by
  rw [State.memWrite]; exact if_congr (Memory.inMemory_iff a bs.length) rfl rfl

/-- What a write changes, byte by byte. -/
theorem State.byteAt_memWrite (s t : State) (a b : Nat) (bs : List Byte) (h : s.memWrite a bs = some t) :
    t = { s with mem := t.mem } ∧
      t.byteAt b = if a ≤ b ∧ b < a + bs.length then bs.getD (b - a) 0 else s.byteAt b := by
  rw [State.memWrite] at h
  split at h
  · cases h; exact ⟨rfl, Memory.get_writeBytes bs s.mem a b⟩
  · cases h

theorem outOfRangeInfo_toNat (a : Nat) (h : a < 65536) : (outOfRangeInfo a).toNat = max a 4096 := by
  simp only [outOfRangeInfo, Config.memSize, BitVec.toNat_ofNat]; omega

/-- Both outcomes of a memory instruction. -/
theorem State.orDataFault_cases (s : State) (r : Option State) :
    (∃ t, r = some t ∧ s.orDataFault r = t) ∨ (r = none ∧ s.orDataFault r = s.raiseDataFault) := by
  cases r with
  | none => exact .inr ⟨rfl, rfl⟩
  | some t => exact .inl ⟨t, rfl, rfl⟩

/-! ### Fetch -/

/-- A fetch answers the word at pc, high byte first, exactly when pc is at most 4094 (20_memory.md R64, R70). -/
theorem State.fetchWord_eq (s : State) :
    s.fetchWord = if s.pc.toNat ≤ 4094 then
      some (wordOfBytes (s.byteAt s.pc.toNat) (s.byteAt (s.pc.toNat + 1))) else none := by
  rw [State.fetchWord]
  refine if_congr ((Memory.inMemory_iff _ _).trans ?_) rfl rfl
  simp only [Config.insnBytes]; omega

/-- A word is read back from its own two bytes. -/
theorem wordOfBytes_bytesOfWord (w : Word) : wordOfBytes (w.extractLsb' 8 8) (w.extractLsb' 0 8) = w := by
  apply BitVec.eq_of_toNat_eq
  simp only [wordOfBytes, BitVec.toNat_ofNat, BitVec.extractLsb'_toNat, Nat.shiftRight_eq_div_pow]
  have := w.isLt
  omega

/-! ### Operands -/

@[simp] theorem addrOperand_toNat (nnn : Addr12) : (addrOperand nnn).toNat = nnn.toNat := by
  have := nnn.isLt
  simp only [addrOperand, BitVec.toNat_setWidth]; omega

@[simp] theorem State.regWord_toNat (s : State) (r : Nibble) : (s.regWord r).toNat = (s.reg r).toNat := by
  have := (s.reg r).isLt
  simp only [State.regWord, BitVec.toNat_setWidth]; omega

theorem glyphAddr_toNat (b : Byte) : (glyphAddr b).toNat = 0x50 + 5 * b.toNat := by
  have := b.isLt
  simp only [glyphAddr, Config.fontBase, Config.fontGlyphBytes, BitVec.toNat_ofNat]; omega

/-- A code above 0xF is never pressed (44_random_input_timer.md R177). -/
theorem State.pressed_eq (s : State) (code : Byte) :
    s.pressed code = (decide (code.toNat ≤ 15) && s.keys.getLsbD code.toNat) := by
  simp only [State.pressed, State.keyHeld]
  by_cases h : code.toNat < 16
  · simp [h, Nat.le_of_lt_succ h]
  · simp [h, show ¬code.toNat ≤ 15 by omega]

/-- The key wait finds no key exactly when the snapshot is 0 (44_random_input_timer.md R174). -/
theorem State.lowestKey_none (s : State) : s.lowestKey = none ↔ s.keys = 0 := by
  simp only [State.lowestKey, Config.nKeys, State.keyHeld, List.find?_eq_none, List.mem_range, Bool.not_eq_true]
  refine ⟨fun h => ?_, fun h k _ => by simp [h]⟩
  apply BitVec.eq_of_getLsbD_eq
  intro k hk
  simpa using h k hk

/-- The key that it finds is held and is the least one. -/
theorem State.lowestKey_some (s : State) (k : Nat) (h : s.lowestKey = some k) :
    k < 16 ∧ s.keys.getLsbD k = true ∧ ∀ j < k, s.keys.getLsbD j = false := by
  rw [State.lowestKey, List.find?_range_eq_some] at h
  exact ⟨by simpa [Config.nKeys] using h.2.1, h.1, fun j hj => by simpa [State.keyHeld] using h.2.2 j hj⟩

/-! ### Flags -/

@[simp] theorem flagByte_true : flagByte true = 1 := rfl
@[simp] theorem flagByte_false : flagByte false = 0 := rfl

theorem flagByte_toNat (b : Bool) : (flagByte b).toNat = if b then 1 else 0 := by cases b <;> rfl

theorem noBorrowFlag_eq (a b : Byte) : noBorrowFlag a b = flagByte (decide (b.toNat ≤ a.toNat)) := by
  simp [noBorrowFlag, Config.borrowFlagSetOnNoBorrow]

end Sys2Proof.Machine
end

