-- ==== Sys2Proof/Laws/PerInstr.lean ====
section
/-! SUPPORT. The per-instruction family `EncodedFamily`: the canonical form of an instruction is well-formed, is its
own canonical form, has the same mnemonic, and its word lies in the same family (30_encoding.md R100, R104). -/

namespace Sys2Proof.Laws.EncodedFamily

def Statement (i : Instr) : Prop :=
  i.canonical.wellFormed = true ∧ i.canonical.canonical = i.canonical ∧ i.canonical.mnemonic = i.mnemonic ∧
    fieldT (encode i.canonical) = fieldT (encode i)

theorem cls (d : Nibble) : Statement (.cls d) := ⟨rfl, rfl, rfl, by simp [Instr.canonical, encode]⟩
theorem ret (d : Nibble) : Statement (.ret d) := ⟨rfl, rfl, rfl, by simp [Instr.canonical, encode]⟩
theorem jp (nnn : Addr12) : Statement (.jp nnn) := ⟨rfl, rfl, rfl, rfl⟩
theorem call (nnn : Addr12) : Statement (.call nnn) := ⟨rfl, rfl, rfl, rfl⟩
theorem sei (x : Nibble) (nn : Byte) : Statement (.sei x nn) := ⟨rfl, rfl, rfl, rfl⟩
theorem snei (x : Nibble) (nn : Byte) : Statement (.snei x nn) := ⟨rfl, rfl, rfl, rfl⟩
theorem ser (x : Nibble) (y : Nibble) (d : Nibble) : Statement (.ser x y d) := ⟨rfl, rfl, rfl, by simp [Instr.canonical, encode]⟩
theorem ldi (x : Nibble) (nn : Byte) : Statement (.ldi x nn) := ⟨rfl, rfl, rfl, rfl⟩
theorem addi (x : Nibble) (nn : Byte) : Statement (.addi x nn) := ⟨rfl, rfl, rfl, rfl⟩
theorem mov (x : Nibble) (y : Nibble) : Statement (.mov x y) := ⟨rfl, rfl, rfl, rfl⟩
theorem or (x : Nibble) (y : Nibble) : Statement (.or x y) := ⟨rfl, rfl, rfl, rfl⟩
theorem and (x : Nibble) (y : Nibble) : Statement (.and x y) := ⟨rfl, rfl, rfl, rfl⟩
theorem xor (x : Nibble) (y : Nibble) : Statement (.xor x y) := ⟨rfl, rfl, rfl, rfl⟩
theorem add (x : Nibble) (y : Nibble) : Statement (.add x y) := ⟨rfl, rfl, rfl, rfl⟩
theorem sub (x : Nibble) (y : Nibble) : Statement (.sub x y) := ⟨rfl, rfl, rfl, rfl⟩
theorem shr (x : Nibble) (y : Nibble) : Statement (.shr x y) := ⟨rfl, rfl, rfl, by simp [Instr.canonical, encode]⟩
theorem subn (x : Nibble) (y : Nibble) : Statement (.subn x y) := ⟨rfl, rfl, rfl, rfl⟩
theorem shl (x : Nibble) (y : Nibble) : Statement (.shl x y) := ⟨rfl, rfl, rfl, by simp [Instr.canonical, encode]⟩
theorem sner (x : Nibble) (y : Nibble) (d : Nibble) : Statement (.sner x y d) := ⟨rfl, rfl, rfl, by simp [Instr.canonical, encode]⟩
theorem lda (nnn : Addr12) : Statement (.lda nnn) := ⟨rfl, rfl, rfl, rfl⟩
theorem jpv0 (nnn : Addr12) : Statement (.jpv0 nnn) := ⟨rfl, rfl, rfl, rfl⟩
theorem rnd (x : Nibble) (nn : Byte) : Statement (.rnd x nn) := ⟨rfl, rfl, rfl, rfl⟩
theorem drw (x : Nibble) (y : Nibble) (n : Nibble) : Statement (.drw x y n) := ⟨rfl, rfl, rfl, rfl⟩
theorem skp (x : Nibble) : Statement (.skp x) := ⟨rfl, rfl, rfl, rfl⟩
theorem sknp (x : Nibble) : Statement (.sknp x) := ⟨rfl, rfl, rfl, rfl⟩
theorem lddt (x : Nibble) : Statement (.lddt x) := ⟨rfl, rfl, rfl, rfl⟩
theorem wkey (x : Nibble) : Statement (.wkey x) := ⟨rfl, rfl, rfl, rfl⟩
theorem stdt (x : Nibble) : Statement (.stdt x) := ⟨rfl, rfl, rfl, rfl⟩
theorem stst (x : Nibble) : Statement (.stst x) := ⟨rfl, rfl, rfl, rfl⟩
theorem adda (x : Nibble) : Statement (.adda x) := ⟨rfl, rfl, rfl, rfl⟩
theorem font (x : Nibble) : Statement (.font x) := ⟨rfl, rfl, rfl, rfl⟩
theorem bcd (x : Nibble) : Statement (.bcd x) := ⟨rfl, rfl, rfl, rfl⟩
theorem stm (x : Nibble) : Statement (.stm x) := ⟨rfl, rfl, rfl, rfl⟩
theorem ldm (x : Nibble) : Statement (.ldm x) := ⟨rfl, rfl, rfl, rfl⟩

end Sys2Proof.Laws.EncodedFamily
end

