-- ==== Sys2Proof/Laws/Safety.lean ====
section
/-! SUPPORT. The laws of the tables in Safety.lean. -/

namespace Sys2Proof.Machine

/-- An instruction accesses at most 16 bytes (20_memory.md R67). -/
theorem dataBytes_le (i : Instr) : dataBytes i ≤ 16 := by
  cases i
  case drw x y n => exact Nat.le_of_lt n.isLt
  case stm x => exact x.isLt
  case ldm x => exact x.isLt
  all_goals simp [dataBytes]

theorem accessFaults_true (i : Instr) (s : State) :
    accessFaults i s = true ↔ 0 < dataBytes i ∧ 4096 < s.dataBase + dataBytes i := by
  rw [accessFaults, Bool.and_eq_true, decide_eq_true_eq, decide_eq_true_eq]

theorem accessFaults_false (i : Instr) (s : State) :
    accessFaults i s = false ↔ dataBytes i = 0 ∨ s.dataBase + dataBytes i ≤ 4096 := by
  rw [← Bool.not_eq_true, accessFaults_true]; omega

/-- What an instruction stores it also accesses. -/
theorem storedBytes_le (i : Instr) : storedBytes i ≤ dataBytes i := by
  cases i <;> simp [storedBytes, dataBytes]

end Sys2Proof.Machine
end

