-- ==== Sys2Proof/Tests/Slice0.lean ====
section
/-! SUPPORT. Tests: well-formedness, words written out from the patterns of 30_encoding.md R95, single steps with the
expected results of 95_test_vectors.md (the vector's id stands at each), and a witness for the hypotheses of each
statement that has any. -/

namespace Sys2Proof.Tests

open Sys2Proof.Machine

/-! ### Well-formedness: each check has a term that it refuses -/

theorem test_wf_cls : Instr.wellFormed (.cls 0) = true ∧ Instr.wellFormed (.cls 5) = false := by decide
theorem test_wf_ret : Instr.wellFormed (.ret 0) = true ∧ Instr.wellFormed (.ret 3) = false := by decide
theorem test_wf_ser : Instr.wellFormed (.ser 1 2 0) = true ∧ Instr.wellFormed (.ser 1 2 7) = false := by decide
theorem test_wf_sner : Instr.wellFormed (.sner 1 2 0) = true ∧ Instr.wellFormed (.sner 1 2 0xF) = false := by decide
theorem test_wf_shr : Instr.wellFormed (.shr 1 0) = true ∧ Instr.wellFormed (.shr 1 2) = false := by decide
theorem test_wf_shl : Instr.wellFormed (.shl 1 0) = true ∧ Instr.wellFormed (.shl 1 2) = false := by decide

/-! ### Decoding: words written out bit by bit from the patterns -/

theorem test_decode_control :
    decodeWord 0b0000000011100000 = some (.cls 0) ∧ decodeWord 0b0000001111101110 = some (.ret 3) ∧
    decodeWord 0b0001001000110100 = some (.jp 0x234) ∧ decodeWord 0b0010001000110100 = some (.call 0x234) ∧
    decodeWord 0b1011001011111111 = some (.jpv0 0x2FF) := by decide

theorem test_decode_skips :
    decodeWord 0b0011101001000010 = some (.sei 0xA 0x42) ∧ decodeWord 0b0100101001000010 = some (.snei 0xA 0x42) ∧
    decodeWord 0b0101000100100111 = some (.ser 1 2 7) ∧ decodeWord 0b1001000100100000 = some (.sner 1 2 0) := by
  decide

theorem test_decode_loads :
    decodeWord 0b0110101001000010 = some (.ldi 0xA 0x42) ∧
    decodeWord 0b0111101000000001 = some (.addi 0xA 0x01) := by decide

theorem test_decode_family8_low :
    decodeWord 0b1000000100100000 = some (.mov 1 2) ∧ decodeWord 0b1000000100100001 = some (.or 1 2) ∧
    decodeWord 0b1000000100100010 = some (.and 1 2) ∧ decodeWord 0b1000000100100011 = some (.xor 1 2) ∧
    decodeWord 0b1000000100100100 = some (.add 1 2) := by decide

theorem test_decode_family8_high :
    decodeWord 0b1000000100100101 = some (.sub 1 2) ∧ decodeWord 0b1000000100100110 = some (.shr 1 2) ∧
    decodeWord 0b1000000100100111 = some (.subn 1 2) ∧ decodeWord 0b1000000100101110 = some (.shl 1 2) := by decide

theorem test_decode_index :
    decodeWord 0b1010001011110000 = some (.lda 0x2F0) ∧ decodeWord 0b1111001100011110 = some (.adda 3) ∧
    decodeWord 0b1111000100101001 = some (.font 1) ∧ decodeWord 0b1111010000110011 = some (.bcd 4) ∧
    decodeWord 0b1111001001010101 = some (.stm 2) ∧ decodeWord 0b1111001001100101 = some (.ldm 2) := by decide

theorem test_decode_inputs :
    decodeWord 0b1100001100001111 = some (.rnd 3 0x0F) ∧ decodeWord 0b1110010010011110 = some (.skp 4) ∧
    decodeWord 0b1110010010100001 = some (.sknp 4) ∧ decodeWord 0b1111010100000111 = some (.lddt 5) ∧
    decodeWord 0b1111001100001010 = some (.wkey 3) ∧ decodeWord 0b1111010100010101 = some (.stdt 5) ∧
    decodeWord 0b1111010100011000 = some (.stst 5) := by decide

theorem test_decode_draw : decodeWord 0b1101000100100101 = some (.drw 1 2 5) := by decide

/-- The illegal words of section 2.7. -/
theorem test_decode_illegal :
    (([0x0000, 0x00E1, 0x00FD, 0x00FE, 0x0123, 0x8128, 0x812F, 0xE000, 0xE19F, 0xF100, 0xF075, 0xF085, 0xF1FF,
      0xFFFF] : List Word).all fun w => decodeWord w == none) = true := by decide

theorem test_decode_bytes :
    decode [0x12, 0x34, 0x56] = .ok (.jp 0x234, [0x56]) ∧ decode [0x00, 0x00] = .error (.illegalOpcode 0) ∧
    decode [0x12] = .error .truncated := by decide

theorem test_encode :
    encode (.drw 1 2 5) = 0xD125 ∧ encode (.ldi 0xA 0x42) = 0x6A42 ∧ encode (.jpv0 0x2FF) = 0xB2FF ∧
    encode (.ret 3) = 0x03EE ∧ encodeBytes (.stm 2) = [0xF2, 0x55] := by decide

theorem test_decodeTableWord : decodeTableWord 16 0xD125 = some (.drw 1 2 5) ∧ decodeTableWord 16 0x8128 = none := by
  decide

/-! ### Single steps -/

/-- One step on a state in which the word stands at pc, under given inputs: it answers a next state that meets the
check. -/
def stepped (s : State) (w : Nat) (check : State → Bool) (keys : Word := 0) (rnd : Byte := 0) : Bool :=
  match step { s.withFetchWord 16 w with inputs := [⟨0, keys, rnd⟩] } with
  | .next t => check t
  | .fault _ => false
  | .refused _ => false

/-- Reset with V1 and V2 given. -/
def with12 (a b : Byte) : State := (State.reset.setReg 1 a).setReg 2 b

/-- The state holds this fault. -/
def faulted (cause : FaultCause) (info fpc pc : Word) (t : State) : Bool :=
  t.run == .halted && t.fault == { cause := cause, info := info, fpc := fpc } && t.pc == pc

/-- F1 -/
theorem test_jp : stepped .reset 0x1234 (fun t => t.pc == 0x0234) = true := by decide
/-- F3 -/
theorem test_call : stepped .reset 0x2300 (fun t => t.slot 0 == 0x0202 && t.sp == 1 && t.pc == 0x0300) = true := by
  decide
/-- F5: a return at SP = 0 wraps. -/
theorem test_ret_wraps :
    stepped { State.reset with stack := State.reset.stack.set 15 0x0ABC } 0x00EE
      (fun t => t.sp == 15 && t.pc == 0x0ABC) = true := by decide
/-- F9 -/
theorem test_jpv0_no_mask : stepped (State.reset.setReg 0 0xFF) 0xBFFF (fun t => t.pc == 0x10FE) = true := by decide
/-- S1, S2 -/
theorem test_sei :
    stepped (State.reset.setReg 0xA 0x42) 0x3A42 (fun t => t.pc == 0x0204) = true ∧
    stepped (State.reset.setReg 0xA 0x41) 0x3A42 (fun t => t.pc == 0x0202) = true := by decide
/-- S3, S4 -/
theorem test_snei :
    stepped (State.reset.setReg 0xA 0x42) 0x4A42 (fun t => t.pc == 0x0202) = true ∧
    stepped State.reset 0x4A42 (fun t => t.pc == 0x0204) = true := by decide
/-- S6, S11 -/
theorem test_ser :
    stepped (with12 7 8) 0x5120 (fun t => t.pc == 0x0202) = true ∧
    stepped (with12 9 9) 0x5127 (fun t => t.pc == 0x0204) = true := by decide
/-- S9, S12 -/
theorem test_sner :
    stepped (with12 7 7) 0x9120 (fun t => t.pc == 0x0202) = true ∧
    stepped (with12 9 8) 0x912F (fun t => t.pc == 0x0204) = true := by decide
/-- A15 -/
theorem test_ldi : stepped .reset 0x6A42 (fun t => t.reg 0xA == 0x42) = true := by decide
/-- A16: no carry flag. -/
theorem test_addi :
    stepped (State.reset.setReg 0xA 0xFF) 0x7A01 (fun t => t.reg 0xA == 0 && t.reg 0xF == 0) = true := by decide
/-- A19 -/
theorem test_mov : stepped (with12 0 0x33) 0x8120 (fun t => t.reg 1 == 0x33) = true := by decide
/-- A20: VF is not cleared. -/
theorem test_or :
    stepped ((with12 0x0F 0xF0).setReg 0xF 1) 0x8121 (fun t => t.reg 1 == 0xFF && t.reg 0xF == 1) = true := by decide
/-- A21 -/
theorem test_and : stepped (with12 0x3C 0x0F) 0x8122 (fun t => t.reg 1 == 0x0C) = true := by decide
/-- A22 -/
theorem test_xor : stepped (with12 0xFF 0x0F) 0x8123 (fun t => t.reg 1 == 0xF0) = true := by decide
/-- A4, A6: with x = F the carry wins. -/
theorem test_add :
    stepped (with12 0xFF 0xFF) 0x8124 (fun t => t.reg 1 == 0xFE && t.reg 0xF == 1) = true ∧
    stepped ((with12 0x20 0).setReg 0xF 0xF0) 0x8F14 (fun t => t.reg 0xF == 1) = true := by decide
/-- A9, A10 -/
theorem test_sub :
    stepped (with12 3 5) 0x8125 (fun t => t.reg 1 == 0xFE && t.reg 0xF == 0) = true ∧
    stepped (with12 5 5) 0x8125 (fun t => t.reg 1 == 0 && t.reg 0xF == 1) = true := by decide
/-- A12, A14b -/
theorem test_subn :
    stepped (with12 3 5) 0x8127 (fun t => t.reg 1 == 2 && t.reg 0xF == 1) = true ∧
    stepped ((with12 3 0).setReg 0xF 5) 0x8F17 (fun t => t.reg 0xF == 0) = true := by decide
/-- A26, A27: Vy is not used. -/
theorem test_shr :
    stepped (with12 0xFF 0) 0x8106 (fun t => t.reg 1 == 0x7F && t.reg 0xF == 1) = true ∧
    stepped (with12 4 0xFF) 0x8126 (fun t => t.reg 1 == 2 && t.reg 2 == 0xFF && t.reg 0xF == 0) = true := by decide
/-- A29, A32b -/
theorem test_shl :
    stepped (with12 0x81 0) 0x810E (fun t => t.reg 1 == 2 && t.reg 0xF == 1) = true ∧
    stepped (State.reset.setReg 0xF 0x7F) 0x8F0E (fun t => t.reg 0xF == 0) = true := by decide
/-- M1 -/
theorem test_lda : stepped .reset 0xA2F0 (fun t => t.i == 0x02F0) = true := by decide
/-- M2b -/
theorem test_adda : stepped ((with12 1 0).setI 0xFFFF) 0xF11E (fun t => t.i == 0 && t.reg 0xF == 0) = true := by
  decide
/-- M3, M5: no masking. -/
theorem test_font :
    stepped (with12 0x0A 0) 0xF129 (fun t => t.i == 0x0082) = true ∧
    stepped (with12 0xFF 0) 0xF129 (fun t => t.i == 0x054B) = true := by decide
/-- M6, M7 -/
theorem test_bcd :
    stepped ((State.reset.setReg 0 0xFF).setI 0x0FFD) 0xF033
      (fun t => t.byteAt 0xFFD == 2 && t.byteAt 0xFFE == 5 && t.byteAt 0xFFF == 5) = true ∧
    stepped ((State.reset.setReg 0 0xFF).setI 0x0FFE) 0xF033
      (fun t => faulted .memoryAddressOutOfRange 0x1000 0x0200 0x0202 t && t.byteAt 0xFFE == 0) = true := by decide
/-- M8, M11 -/
theorem test_stm :
    stepped ((((with12 2 3).setReg 0 1).setReg 3 4).setI 0x0300) 0xF255
      (fun t => t.byteAt 0x300 == 1 && t.byteAt 0x302 == 3 && t.byteAt 0x303 == 0 && t.i == 0x0300) = true ∧
    stepped ((State.reset.setReg 0 7).setI 0x0FFA) 0xFF55
      (fun t => faulted .memoryAddressOutOfRange 0x1000 0x0200 0x0202 t && t.byteAt 0xFFA == 0) = true := by decide
/-- M12, M13 -/
theorem test_ldm :
    stepped { State.reset.setI 0x0FFF with mem := [(0xFFF, 0x77)] } 0xF065 (fun t => t.reg 0 == 0x77) = true ∧
    stepped { State.reset.setI 0x0FFF with mem := [(0xFFF, 0x77)] } 0xF165
      (fun t => faulted .memoryAddressOutOfRange 0x1000 0x0200 0x0202 t && t.reg 0 == 0) = true := by decide
/-- K1 -/
theorem test_rnd : stepped .reset 0xC30F (fun t => t.reg 3 == 0x07) 0 0xA7 = true := by decide
/-- K4, K8: a code above F is never pressed. -/
theorem test_skp :
    stepped (State.reset.setReg 4 5) 0xE49E (fun t => t.pc == 0x0204) 0x0020 = true ∧
    stepped (State.reset.setReg 4 0x15) 0xE49E (fun t => t.pc == 0x0202) 0xFFFF = true := by decide
/-- K6, K9 -/
theorem test_sknp :
    stepped (State.reset.setReg 4 5) 0xE4A1 (fun t => t.pc == 0x0202) 0x0020 = true ∧
    stepped (State.reset.setReg 4 0x10) 0xE4A1 (fun t => t.pc == 0x0204) 0xFFFF = true := by decide
/-- K10, K11 -/
theorem test_wkey :
    stepped (State.reset.setPc 0x0210) 0xF30A (fun t => t.pc == 0x0210) 0 = true ∧
    stepped (State.reset.setPc 0x0210) 0xF30A (fun t => t.pc == 0x0212 && t.reg 3 == 8) 0x0900 = true := by decide
/-- K10, K11: the step result. -/
theorem test_wkey_result :
    stepResult { State.reset.withFetchWord 16 0xF30A with inputs := [⟨0, 0, 0⟩] } = .awaitingKey ∧
    stepResult { State.reset.withFetchWord 16 0xF30A with inputs := [⟨0, 0x0900, 0⟩] } = .done := by decide
/-- K13 -/
theorem test_lddt : stepped (State.reset.setDt 0x3C) 0xF507 (fun t => t.reg 5 == 0x3C) = true := by decide
/-- K14 -/
theorem test_stdt : stepped (State.reset.setReg 5 0x3C) 0xF515 (fun t => t.dt == 0x3C) = true := by decide
/-- K15 -/
theorem test_stst :
    stepped (State.reset.setReg 5 2) 0xF518
      (fun t => t.st == 2 && t.soundActive && !(t.tick.tick).soundActive) = true := by decide
/-- K16, K17 -/
theorem test_tick :
    (State.reset.setDt 1).tick.dt = 0 ∧ (State.reset.setDt 1).tick.st = 0 ∧ (State.reset.setSt 0xFF).tick.st = 0xFE := by
  decide
/-- D21 -/
theorem test_cls :
    stepped { State.reset.setReg 0xF 1 with disp := Display.toggle State.reset.disp 3 4 } 0x00E0
      (fun t => Display.get t.disp 3 4 == false && t.reg 0xF == 1) = true := by decide
/-- D9: the sprite byte 0xF0 at (60, 0), then 0x0F: clipped bits do not collide; here the second draw. -/
theorem test_drw_clips :
    stepped { (with12 60 0).setI 0x300 with
        mem := [(0x300, 0x0F)], disp := Display.toggle State.reset.disp 63 0 } 0xD121
      (fun t => Display.get t.disp 63 0 && !Display.get t.disp 0 0 && t.reg 0xF == 0) = true := by decide
/-- D19: the old VF is the column, then the collision flag overwrites it; bit 7 is the leftmost. -/
theorem test_drw_old_vf :
    stepped { ((with12 2 0).setReg 0xF 5).setI 0x300 with mem := [(0x300, 0x80)] } 0xDF11
      (fun t => Display.get t.disp 5 2 && !Display.get t.disp 4 2 && t.reg 0xF == 0) = true := by decide
/-- D6: the second draw collides. -/
theorem test_drw_collides :
    stepped { (with12 10 5).setI 0x300 with
        mem := [(0x300, 0xFF)], disp := Display.toggle State.reset.disp 10 5 } 0xD121
      (fun t => !Display.get t.disp 10 5 && Display.get t.disp 17 5 && t.reg 0xF == 1) = true := by decide
/-- Section 2.7, F11: an illegal word at the last fetchable address. -/
theorem test_illegal :
    stepped State.reset 0x8128 (faulted .illegalOpcode 0x8128 0x0200 0x0202) = true ∧
    stepped (State.reset.setPc 0x0FFE) 0x0000 (faulted .illegalOpcode 0 0x0FFE 0x1000) = true := by decide

/-! ### Witnesses: for each statement that has hypotheses, a state and operands that meet them all -/

/-- The last place a word can be fetched from, with the word 0x1234 in it. -/
def atLastWord : State := { State.reset with pc := 4094, mem := [(4094, 0x12), (4095, 0x34)] }

/-- A core that the illegal word 0x0000 at the entry point has halted. -/
def haltedState : State :=
  { State.reset with pc := 0x0202, run := .halted, fault := { cause := .illegalOpcode, info := 0, fpc := 0x0200 } }

/-- EncodeOfDecodeIsTheWord: a word with a don't-care digit. -/
theorem test_witness_encodeOfDecode :
    decodeWord 0x912F = some (.sner 1 2 0xF) ∧ decode [0x91, 0x2F, 0x00] = .ok (.sner 1 2 0xF, [0x00]) := by decide

/-- WordIsInstructionExactlyWhenRowMatches: a row, another row, and a word of the first. -/
theorem test_witness_rows :
    (⟨"CLS", 0xF0FF, 0x00E0⟩ : OpcodeRow) ∈ opcodeRows ∧ (⟨"RET", 0xF0FF, 0x00EE⟩ : OpcodeRow) ∈ opcodeRows ∧
    (⟨"RET", 0xF0FF, 0x00EE⟩ : OpcodeRow) ≠ ⟨"CLS", 0xF0FF, 0x00E0⟩ ∧ (0x05E0 : Word) &&& 0xF0FF = 0x00E0 := by decide

/-- IllegalWordsAreThoseOfTheTable: a word under each clause. -/
theorem test_witness_illegalWords :
    decodeWord 0x01E1 = none ∧ decodeWord 0x8128 = none ∧ decodeWord 0x812F = none ∧ decodeWord 0xE19F = none ∧
    decodeWord 0xF1FF = none := by decide

/-- StepRunsTheDecodedInstruction, CycleMoveRunsTheDecodedInstruction: at the last fetchable pc. -/
theorem test_witness_stepRuns :
    atLastWord.run = .running ∧ atLastWord.pc.toNat ≤ 4094 ∧
    decode [atLastWord.byteAt atLastWord.pc.toNat, atLastWord.byteAt (atLastWord.pc.toNat + 1)] =
      .ok (.jp 0x234, []) := by decide

/-- FetchReadsTwoBytesOrFaults: pc at 4094, 4095 (the step of F10 after its jump) and 4096. -/
theorem test_witness_fetch :
    atLastWord.run = .running ∧ atLastWord.fetchWord = some 0x1234 ∧
    (match applyMove (.cycle 0 0) { atLastWord with pc := 4095 } with
      | .next t => faulted .memoryAddressOutOfRange 0x1000 0x0FFF 0x0FFF t
      | .fault _ => false
      | .refused _ => false) = true ∧
    ({ atLastWord with pc := 4096 } : State).fetchWord = none := by decide

/-- IllegalWordHaltsWithTheWord: an illegal word in the decode stage; and a state that holds the fault, in which an
instruction run on its own keeps it. -/
theorem test_witness_illegalHalts :
    (State.reset.run = .running ∧ State.reset.fetchWord = some 0 ∧ decodeWord 0 = none) ∧
    ∃ t, exec (.ldi 1 2) haltedState = .next t ∧ t.fault.cause = .illegalOpcode := ⟨by decide, _, rfl, rfl⟩

/-- DataAccessOutOfRangeHaltsPrecisely: for each of the four, the first I that is out of range. -/
theorem test_witness_dataAccess :
    (0 < dataBytes (.drw 1 2 1) ∧ 4096 < (State.reset.setI 4096).i.toNat + dataBytes (.drw 1 2 1)) ∧
    (0 < dataBytes (.bcd 1) ∧ 4096 < (State.reset.setI 4094).i.toNat + dataBytes (.bcd 1)) ∧
    (0 < dataBytes (.stm 0xF) ∧ 4096 < (State.reset.setI 4081).i.toNat + dataBytes (.stm 0xF)) ∧
    (0 < dataBytes (.ldm 0) ∧ 4096 < (State.reset.setI 4096).i.toNat + dataBytes (.ldm 0)) := by decide

/-- OnlyAnAccessOutOfRangeStopsAnInstruction: the last I in range, and no byte at all with I = 0xFFFF. -/
theorem test_witness_onlyAccess :
    ¬(0 < dataBytes (.bcd 1) ∧ 4096 < (State.reset.setI 4093).i.toNat + dataBytes (.bcd 1)) ∧
    ¬(0 < dataBytes (.drw 1 2 0) ∧ 4096 < (State.reset.setI 0xFFFF).i.toNat + dataBytes (.drw 1 2 0)) := by decide

/-- The step answers a state that is halted by this cause. -/
def haltsBy (cause : FaultCause) (s : State) : Bool :=
  match step s with
  | .next t => s.run == .running && t.run == .halted && t.fault.cause == cause
  | .fault _ => false
  | .refused _ => false

/-- StepHaltsOnlyByAListedFault: a step that halts, for each of the three ways. -/
theorem test_witness_stepHalts :
    haltsBy .memoryAddressOutOfRange { atLastWord with pc := 4095, inputs := [⟨0, 0, 0⟩] } = true ∧
    haltsBy .illegalOpcode { State.reset with inputs := [⟨0, 0, 0⟩] } = true ∧
    haltsBy .memoryAddressOutOfRange
      { (State.reset.setI 4094).withFetchWord 16 0xF033 with inputs := [⟨0, 0, 0⟩] } = true := by decide

/-- HaltedStepChangesOnlyTimersAndInputs and HaltedIsLeftOnlyByReset: a halted core under ticks and a cycle (K18, X1). -/
theorem test_witness_halted :
    haltedState.run = .halted ∧ (∀ image, HostMove.reset image ∉ [HostMove.tick, .cycle 1 2]) ∧
    ∃ t, applyMoves [.tick, .cycle 1 2] haltedState = .next t := ⟨rfl, by simp, _, rfl⟩

/-- StepResultIsAsTheCycleReturns: the step answers a next state, and each result occurs (`done` and `awaiting_key`
stand in test_wkey_result). -/
theorem test_witness_stepResult :
    (∃ t, step haltedState = .next t) ∧ stepResult { State.reset with inputs := [⟨0, 0, 0⟩] } = .fault ∧
    ({ State.reset.withFetchWord 16 0xF30A with inputs := [⟨0, 0, 0⟩] } : State).nextInput.keys = 0 ∧
    ({ State.reset.withFetchWord 16 0xF30A with inputs := [⟨0, 0, 0⟩] } : State).fetchWord.bind decodeWord =
      some (.wkey 3) := ⟨⟨_, rfl⟩, by decide, by decide, by decide⟩

/-- A state whose pc and I are both 0x208, as program P5 has them when it stores. -/
def storeAhead : State := ((State.reset.setReg 0 0x12).setReg 1 0x0A |>.setPc 0x208).setI 0x208

/-- StoreIsSeenByTheNextFetch: P5's store. -/
theorem test_witness_storeIsSeen :
    storeAhead.dataBase + (1 : Nibble).toNat ≤ 4095 ∧ (0 : Nibble).toNat + 1 ≤ (1 : Nibble).toNat ∧
    ∃ t, exec (.stm 1) storeAhead = .next t ∧ t.pc.toNat = storeAhead.dataBase + (0 : Nibble).toNat ∧
      t.fetchWord = some 0x120A := ⟨by decide, by decide, _, rfl, by decide, by decide⟩

/-- SelfJumpChangesNothing: F2. -/
theorem test_witness_selfJump :
    (State.reset.withFetchWord 16 0x1200).run = .running ∧
    (State.reset.withFetchWord 16 0x1200).pc.toNat = (0x200 : Addr12).toNat ∧
    (State.reset.withFetchWord 16 0x1200).fetchWord = some (encode (.jp 0x200)) := by decide

/-- LoadPlacesTheImageOrRefusesIt: the longest image that is loaded and the shortest that is refused. -/
theorem test_witness_load :
    (List.replicate 3584 (1 : Byte)).length ≤ 3584 ∧ 3584 < (List.replicate 3585 (1 : Byte)).length := by
  rw [List.length_replicate, List.length_replicate]; decide

/-- A small load, from a halted core with memory written: P6's image, and nothing survives the reset. -/
theorem test_load :
    (match applyMove (.reset [0x60, 0xFF, 0xAF, 0xFE, 0xF0, 0x33]) { haltedState with mem := [(0x206, 7)] } with
      | .next t => t.byteAt 0x200 == 0x60 && t.byteAt 0x205 == 0x33 && t.byteAt 0x206 == 0 && t.run == .running
      | .fault _ => false
      | .refused _ => false) = true := by decide

/-- DelayTimerReadsBackLessTheTicks: K14 and K13 with a tick between. -/
theorem test_witness_delayTimer :
    ∃ t u : State, exec (.stdt 5) (State.reset.setReg 5 0x3C) = .next t ∧ exec (.lddt 6) (t.ticks 1) = .next u ∧
      u.reg 6 = 0x3B := ⟨_, _, rfl, rfl, by decide⟩

/-- OnlyResetAndStoresWriteMemory: a tick, a cycle that halts (an illegal word), and one that stores (BCD). -/
theorem test_witness_onlyResetWrites :
    (∃ t, applyMove .tick State.reset = .next t) ∧
    (∃ t, applyMove (.cycle 0 0) State.reset = .next t ∧ t.run = .halted) ∧
    ∃ t, applyMove (.cycle 0 0) ((State.reset.setI 0x300).setReg 0 9 |>.withFetchWord 16 0xF033) = .next t ∧
      t.byteAt 0x302 ≠ ((State.reset.setI 0x300).setReg 0 9 |>.withFetchWord 16 0xF033).byteAt 0x302 :=
  ⟨⟨_, rfl⟩, ⟨_, rfl, rfl⟩, _, rfl, by decide⟩

/-- JumpSetsPcToTheLiteral: F10, the literal whose fetch faults. -/
theorem test_witness_jump :
    State.reset.run = .running ∧ ∃ t, exec (.jp 0xFFF) State.reset = .next t ∧ t.pc = 0x0FFF ∧ t.fetchWord = none :=
  ⟨rfl, _, rfl, by decide, by decide⟩

/-- ReturnUndoesCall: a call, then the state as it is. -/
theorem test_witness_returnUndoesCall :
    ∃ t u : State, exec (.call 0x300) (State.reset.setPc 0x202) = .next t ∧ u.sp = t.sp ∧ u.stack = t.stack :=
  ⟨_, _, rfl, rfl, rfl⟩

/-- F6's return addresses, the first `n`. -/
def nestedCalls (n : Nat) : List (Word × Addr12) :=
  (List.range n).map fun k => (BitVec.ofNat 16 (0x202 + 2 * k), BitVec.ofNat 12 (0x202 + 2 * k))

/-- A chain of calls always ends somewhere. -/
theorem test_callChain_ends (cs : List (Word × Addr12)) : ∀ s, ∃ t, CallChain s cs t := by
  induction cs with
  | nil => exact fun s => ⟨s, rfl⟩
  | cons c cs ih => exact fun s => (ih _).elim fun t h => ⟨t, _, rfl, h⟩

/-- SeventeenthCallOverwritesTheOldest: chains of 16 and of 17 calls (F6). -/
theorem test_witness_callChain :
    (∃ t, CallChain State.reset (nestedCalls 16) t) ∧ (nestedCalls 16).length = 16 ∧
    (∃ t, CallChain State.reset (nestedCalls 17) t) ∧ (nestedCalls 17).length = 17 :=
  ⟨test_callChain_ends _ _, by decide, test_callChain_ends _ _, by decide⟩

/-- AddAndSubtractWriteResultThenFlag, ShiftsMoveVxByOneBit, and the single-register statements: a destination that is
not VF, and a register that is neither. -/
theorem test_witness_registers : (1 : Nibble) ≠ 0xF ∧ (2 : Nibble) ≠ 1 ∧ (2 : Nibble) ≠ 0xF := by decide

/-- BcdStoresThreeDigits: the last I in range and the first that is not. -/
theorem test_witness_bcd :
    (State.reset.setI 4093).dataBase ≤ 4093 ∧ 4094 ≤ (State.reset.setI 4094).dataBase := by decide

/-- StmStoresFirstRegisters, LdmLoadsFirstRegisters: all 16 registers up to the last byte of memory (M10). -/
theorem test_witness_memops : (State.reset.setI 0x0FF0).dataBase + (0xF : Nibble).toNat ≤ 4095 := by decide

/-- LdmRestoresWhatStmStored: the registers are put to other values between. -/
theorem test_witness_restore :
    (State.reset.setI 0x0FF0).dataBase + (0xF : Nibble).toNat ≤ 4095 ∧
    ∃ t u : State, exec (.stm 0xF) (State.reset.setI 0x0FF0) = .next t ∧ u.mem = t.mem ∧ u.i = t.i ∧ u.reg 3 = 9 :=
  ⟨by decide, _, State.setReg _ 3 9, rfl, rfl, rfl, by decide⟩

/-- KeyWaitRewindsOrLoadsTheLeastKey: no key, and only the last. -/
theorem test_witness_keys :
    State.reset.keys = 0 ∧ (State.reset.sample 0x8000 0).keys ≠ 0 := by decide

/-- DrawXorsTheSpriteAndFlagsCollision: no row with I out of memory (D14), and the last I in range (D16). -/
theorem test_witness_draw :
    ((0 : Nibble) = 0 ∨ (State.reset.setI 0xFFFF).dataBase + (0 : Nibble).toNat ≤ 4096) ∧
    ((0xF : Nibble) = 0 ∨ (State.reset.setI 0x0FF1).dataBase + (0xF : Nibble).toNat ≤ 4096) := by decide

/-- SecondDrawRestoresTheDisplay: glyph 0 twice. -/
theorem test_witness_secondDraw :
    (1 : Nibble) ≠ 0xF ∧ (2 : Nibble) ≠ 0xF ∧ (State.reset.setI 0x50).dataBase + (5 : Nibble).toNat ≤ 4096 ∧
    ∃ t u : State, exec (.drw 1 2 5) (State.reset.setI 0x50) = .next t ∧ exec (.drw 1 2 5) t = .next u :=
  ⟨by decide, by decide, by decide, _, _, rfl, rfl⟩

/-- InstructionsWriteOnlyTheirWriteSet, OnlyKeyAndRandomInstructionsSeeInputs,
TimersAndLatchAreReadByNoOtherInstruction: a next state, with the access in range and out of it, and the columns
empty. -/
theorem test_witness_writeSets :
    (∃ t, exec (.bcd 1) (State.reset.setI 4093) = .next t) ∧ accessFaults (.bcd 1) (State.reset.setI 4093) = false ∧
    (∃ t, exec (.bcd 1) (State.reset.setI 4094) = .next t) ∧ accessFaults (.bcd 1) (State.reset.setI 4094) = true ∧
    writesReg (.bcd 1) 1 = false ∧ writesI (.bcd 1) = false ∧ writesPc (.bcd 1) = false ∧ writesSp (.bcd 1) = false ∧
    writesSlot (.bcd 1) State.reset 0 = false ∧ writesDisp (.bcd 1) = false ∧ readsKeys (.bcd 1) = false :=
  ⟨⟨_, rfl⟩, by decide, ⟨_, rfl⟩, by decide, by decide, by decide, by decide, by decide, by decide, by decide,
    by decide⟩

/-- StepKeepsTheInvariant, EveryMoveKeepsTheInvariant: the state after the longest indexed jump meets it, and each
kind of move answers a next state from it. -/
theorem test_witness_invariant :
    State.Inv { State.reset with pc := 0x10FE } ∧
    (∃ t, step { State.reset with pc := 0x10FE } = .next t) ∧
    (∃ t, applyMove (.reset [1]) { State.reset with pc := 0x10FE } = .next t) ∧
    (∃ t, applyMove .tick { State.reset with pc := 0x10FE } = .next t) ∧
    ∃ t, applyMove (.cycle 0 0) { State.reset with pc := 0x10FE } = .next t :=
  ⟨⟨by decide, ⟨by decide, by decide⟩, .inl ⟨rfl, rfl⟩⟩, ⟨_, rfl⟩, ⟨_, rfl⟩, ⟨_, rfl⟩, ⟨_, rfl⟩⟩

/-- The invariant holds of a halted core too. -/
theorem test_witness_invariant_halted : State.Inv haltedState :=
  ⟨by decide, ⟨by decide, by decide⟩, .inr ⟨rfl, .inl ⟨rfl, by decide, by decide, by decide⟩⟩⟩

end Sys2Proof.Tests
end

section
/-! PROOFS. Where a sampled input reaches the next state (00_scope.md R7; 10_state.md R35, R36). Both inputs are
replaced at once, by `State.sample`: every shared operation carries the new values along without looking at them, so
an instruction does too, but for the input that it reads. -/

namespace Sys2Proof.Machine

/-! ### The shared operations carry the inputs along -/

section
variable (s : State) (keys : Word) (rnd : Byte)

@[simp] theorem State.sample_self : s.sample s.keys s.rnd = s := rfl

theorem State.skipIf_sample (c : Bool) : (s.sample keys rnd).skipIf c = (s.skipIf c).sample keys rnd := by
  cases c <;> rfl

theorem State.memWrite_sample (a : Nat) (bs : List Byte) :
    (s.sample keys rnd).memWrite a bs = (s.memWrite a bs).map (·.sample keys rnd) := by
  rw [State.memWrite_eq, State.memWrite_eq]
  split <;> rfl

theorem State.orDataFault_sample {r r' : Option State} (h : r' = r.map (·.sample keys rnd)) :
    (s.sample keys rnd).orDataFault r' = (s.orDataFault r).sample keys rnd := by
  subst h
  cases r <;> rfl

theorem execWkey_sample_rnd (x : Nibble) {t : State} (h : execWkey x s = .next t) :
    execWkey x (s.sample s.keys rnd) = .next (t.sample s.keys rnd) := by
  have hkey : (s.sample s.keys rnd).lowestKey = s.lowestKey := rfl
  simp only [execWkey, hkey] at h ⊢
  cases h
  cases s.lowestKey <;> rfl

end

/-! ### The instructions -/

/-- With the keys replaced only where the instruction does not read them, and the random byte only where it is not
RND, the next state is the same one with the new inputs in it. -/
theorem exec_sample {i : Instr} {s t : State} {keys : Word} {rnd : Byte} (h : exec i s = .next t)
    (hkeys : readsKeys i = true → keys = s.keys) (hrnd : (∃ x nn, i = .rnd x nn) → rnd = s.rnd) :
    exec i (s.sample keys rnd) = .next (t.sample keys rnd) := by
  cases i
  case skp | sknp =>
    obtain rfl := hkeys rfl
    cases h
    exact congrArg Host.Outcome.next (s.skipIf_sample ..)
  case wkey x =>
    obtain rfl := hkeys rfl
    exact execWkey_sample_rnd s rnd x h
  case rnd x nn =>
    obtain rfl := hrnd ⟨x, nn, rfl⟩
    cases h; rfl
  case sei | snei | ser | sner =>
    cases h
    exact congrArg Host.Outcome.next (s.skipIf_sample ..)
  case drw | ldm =>
    cases h
    refine congrArg Host.Outcome.next (s.orDataFault_sample _ _ ?_)
    rw [Option.map_map]; rfl
  case bcd =>
    cases h
    exact congrArg Host.Outcome.next (s.orDataFault_sample _ _ (s.memWrite_sample ..))
  case stm =>
    cases h
    refine congrArg Host.Outcome.next (s.orDataFault_sample _ _ ?_)
    rw [State.memWrite_sample, Option.map_map, Option.map_map]; rfl
  -- every other meaning is one update of the state, with no case to decide
  all_goals cases h; rfl

/-- No instruction writes the key snapshot or the random byte. -/
theorem exec_keys_rnd {i : Instr} {s t : State} (h : exec i s = .next t) : t.keys = s.keys ∧ t.rnd = s.rnd := by
  have hsame : exec i (s.sample s.keys s.rnd) = .next (t.sample s.keys s.rnd) :=
    exec_sample h (fun _ => rfl) (fun _ => rfl)
  rw [s.sample_self, h] at hsame
  have ht : t = t.sample s.keys s.rnd := Host.Outcome.next.inj hsame
  exact ⟨(congrArg State.keys ht :), (congrArg State.rnd ht :)⟩

/-- Settles O47: one input at a time, the other one being replaced by its own value. -/
theorem onlyKeyAndRandomInstructionsSeeInputs : Obligations.OnlyKeyAndRandomInstructionsSeeInputs := by
  intro i s t h
  obtain ⟨hkeys, hrnd⟩ := exec_keys_rnd h
  refine ⟨fun hreads keys => ?_, fun hne rnd => ?_⟩
  · change exec i (s.sample keys s.rnd) = .next (t.sample keys t.rnd)
    rw [hrnd]
    exact exec_sample h (by simp [hreads]) (fun _ => rfl)
  · change exec i (s.sample s.keys rnd) = .next (t.sample t.keys rnd)
    rw [hkeys]
    exact exec_sample h (fun _ => rfl) (fun ⟨x, nn, hi⟩ => absurd hi (hne x nn))

end Sys2Proof.Machine
end

section
/-! PROOFS. What an instruction can do, said once: it takes the data fault when its access leaves the memory, and else
changes nothing outside its row of the write sets (10_state.md R43, 60_exceptions.md R202). -/

namespace Sys2Proof.Machine

/-! ### The data access, in terms of `accessFaults` -/

theorem State.memRead_dataBytes (i : Instr) (s : State) :
    s.memRead s.dataBase (dataBytes i) =
      if accessFaults i s then none else some (Memory.readBytes s.mem s.dataBase (dataBytes i)) := by
  rw [State.memRead_eq]
  cases h : accessFaults i s
  · rw [if_pos ((accessFaults_false i s).1 h)]; rfl
  · rw [if_neg (by have := (accessFaults_true i s).1 h; omega)]; rfl

theorem State.memWrite_dataBytes (i : Instr) (s : State) (bs : List Byte) (hlen : bs.length = dataBytes i) :
    s.memWrite s.dataBase bs =
      if accessFaults i s then none else some { s with mem := Memory.writeBytes s.mem s.dataBase bs } := by
  rw [State.memWrite_eq, hlen]
  cases h : accessFaults i s
  · rw [if_pos ((accessFaults_false i s).1 h)]; rfl
  · rw [if_neg (by have := (accessFaults_true i s).1 h; omega)]; rfl

theorem exec_drw (x y n : Nibble) (s : State) :
    exec (.drw x y n) s = .next (if accessFaults (.drw x y n) s then s.raiseDataFault
      else s.drawSprite (s.spriteCol x) (s.spriteRow y) (Memory.readBytes s.mem s.dataBase n.toNat)) := by
  change Host.Outcome.next (s.orDataFault ((s.memRead s.dataBase (dataBytes (.drw x y n))).map _)) = _
  rw [State.memRead_dataBytes]
  split <;> rfl

theorem exec_ldm (x : Nibble) (s : State) :
    exec (.ldm x) s = .next (if accessFaults (.ldm x) s then s.raiseDataFault
      else s.setFirstRegs (Memory.readBytes s.mem s.dataBase (x.toNat + 1))) := by
  change Host.Outcome.next (s.orDataFault ((s.memRead s.dataBase (dataBytes (.ldm x))).map _)) = _
  rw [State.memRead_dataBytes]
  split
  · rfl
  · simp [dataBytes]

theorem exec_bcd (x : Nibble) (s : State) :
    exec (.bcd x) s = .next (if accessFaults (.bcd x) s then s.raiseDataFault
      else { s with mem := Memory.writeBytes s.mem s.dataBase (decimalDigits (s.reg x)) }) := by
  change Host.Outcome.next (s.orDataFault (s.memWrite s.dataBase _)) = _
  rw [State.memWrite_dataBytes (.bcd x) s (decimalDigits (s.reg x)) rfl]
  split <;> rfl

theorem length_firstRegs_memopCount (x : Nibble) (s : State) :
    (s.firstRegs (memopCount x)).length = x.toNat + 1 := by
  have := x.isLt
  rw [State.length_firstRegs, memopCount_eq]; omega

theorem exec_stm (x : Nibble) (s : State) :
    exec (.stm x) s = .next (if accessFaults (.stm x) s then s.raiseDataFault
      else { s with mem := Memory.writeBytes s.mem s.dataBase (s.firstRegs (memopCount x)) }) := by
  change Host.Outcome.next (s.orDataFault ((s.memWrite s.dataBase _).map _)) = _
  rw [State.memWrite_dataBytes (.stm x) s _ (length_firstRegs_memopCount x s)]
  split
  · rfl
  · simp

/-- The one fault of an instruction (60_exceptions.md R202). -/
theorem exec_of_accessFaults {i : Instr} {s : State} (h : accessFaults i s = true) :
    exec i s = .next s.raiseDataFault := by
  cases i
  case drw => rw [exec_drw, if_pos h]
  case ldm => rw [exec_ldm, if_pos h]
  case bcd => rw [exec_bcd, if_pos h]
  case stm => rw [exec_stm, if_pos h]
  -- no other instruction accesses a byte
  all_goals exact absurd h Bool.false_ne_true

/-! ### The write set of an instruction that completes -/

/-- Where pc may stand after an instruction that found it at `s.pc`. The greatest literal plus the greatest byte is
0x10FE (10_state.md R26). -/
def State.PcTarget (s : State) (p : Word) : Prop :=
  p = s.pc ∨ p = s.pc + 2 ∨ p = s.pc - 2 ∨ (∃ k, p = s.slot k) ∨ p.toNat ≤ 0x10FE

/-- `t` differs from `s` by what the write set of `i` allows, and by no fault. A field that is left as it is needs no
proof. -/
structure Completes (i : Instr) (s t : State) : Prop where
  reg : ∀ j, writesReg i j = false → t.reg j = s.reg j := by intro _ _; rfl
  index : writesI i = false → t.i = s.i := by intro _; rfl
  pc : writesPc i = false → t.pc = s.pc := by intro _; rfl
  pcTarget : s.PcTarget t.pc := by exact .inl rfl
  sp : writesSp i = false → t.sp = s.sp := by intro _; rfl
  slot : ∀ k, t.slot k = s.slot k ∨ (writesSlot i s k = true ∧ t.slot k = s.pc) := by intro _; exact .inl rfl
  dt : (∀ x, i ≠ .stdt x) → t.dt = s.dt := by intro _; rfl
  st : (∀ x, i ≠ .stst x) → t.st = s.st := by intro _; rfl
  disp : writesDisp i = false → t.disp = s.disp := by intro _; rfl
  mem : t.mem = s.mem ∨ ∃ bs, bs.length = storedBytes i ∧ t.mem = Memory.writeBytes s.mem s.dataBase bs := by
    exact .inl rfl
  run : t.run = s.run := by rfl
  fault : t.fault = s.fault := by rfl
  keys : t.keys = s.keys := by rfl
  rnd : t.rnd = s.rnd := by rfl
  inputs : t.inputs = s.inputs := by rfl
  clock : t.clock = s.clock := by rfl

namespace Completes

variable {i : Instr} {s t : State}

theorem ne_of_writesReg {x j : Nibble} (hx : writesReg i x = true) (hj : writesReg i j = false) : j ≠ x :=
  fun e => Bool.false_ne_true (hj.symm.trans (e ▸ hx))

theorem setReg {x : Nibble} {b : Byte} (hx : writesReg i x = true) : Completes i s (s.setReg x b) where
  reg j hj := by rw [State.reg_setReg, if_neg (ne_of_writesReg hx hj)]

theorem setRegFlag {x : Nibble} {b f : Byte} (hx : writesReg i x = true) (hf : writesReg i 0xF = true) :
    Completes i s (s.setRegFlag x b f) where
  reg j hj := by rw [State.reg_setRegFlag, if_neg (ne_of_writesReg hf hj), if_neg (ne_of_writesReg hx hj)]

theorem setI {w : Word} (h : writesI i = true) : Completes i s (s.setI w) where
  index hi := by simp [h] at hi

theorem setPc {w : Word} (h : writesPc i = true) (hw : s.PcTarget w) : Completes i s (s.setPc w) where
  pc hp := by simp [h] at hp
  pcTarget := hw

theorem skipIf {c : Bool} (h : writesPc i = true) : Completes i s (s.skipIf c) := by
  cases c
  · exact {}
  · exact setPc h (.inr (.inl rfl))

theorem drawSprite {x0 y0 : Nat} {rows : List Byte} (hf : writesReg i 0xF = true) (hd : writesDisp i = true) :
    Completes i s (s.drawSprite x0 y0 rows) where
  reg := (setReg hf (s := s.setDisp _)).reg
  disp h := by simp [hd] at h

theorem writeBytes {bs : List Byte} (h : bs.length = storedBytes i) :
    Completes i s { s with mem := Memory.writeBytes s.mem s.dataBase bs } where
  mem := .inr ⟨bs, h, rfl⟩

/-- What is stored is at `I` and as long as the write set says (10_state.md R43, column MEM). -/
theorem byteAt (h : Completes i s t) {a : Nat} (ha : a < s.dataBase ∨ s.dataBase + storedBytes i ≤ a) :
    t.byteAt a = s.byteAt a := by
  rcases h.mem with hmem | ⟨bs, hlen, hmem⟩
  · rw [State.byteAt, hmem]; rfl
  · rw [State.byteAt, hmem, Memory.get_writeBytes, if_neg (by omega)]; rfl

end Completes

theorem toNat_jpv0Target (nnn : Addr12) (s : State) :
    (addrOperand nnn + s.regWord 0).toNat = nnn.toNat + (s.reg 0).toNat := by
  have := nnn.isLt; have := (s.reg 0).isLt
  rw [BitVec.toNat_add, addrOperand_toNat, State.regWord_toNat]; omega

/-- The frame of the 34 instructions: one whose access stays in memory, or that has none, completes. -/
theorem exec_completes {i : Instr} {s t : State} (h : exec i s = .next t) (hacc : accessFaults i s = false) :
    Completes i s t := by
  cases i
  case drw =>
    rw [exec_drw, hacc] at h; cases h
    exact .drawSprite rfl rfl
  case ldm x =>
    rw [exec_ldm, hacc] at h; cases h
    refine { reg := fun j hj => ?_ }
    have hj : ¬j.toNat ≤ x.toNat := of_decide_eq_false hj
    change (s.setFirstRegs _).reg j = _
    rw [State.reg_setFirstRegs, Memory.getD_readBytes, if_neg (by omega)]
  case bcd =>
    rw [exec_bcd, hacc] at h; cases h
    exact .writeBytes rfl
  case stm x =>
    rw [exec_stm, hacc] at h; cases h
    exact .writeBytes (length_firstRegs_memopCount x s)
  case ldi | addi | mov | or | and | xor | rnd | lddt => cases h; exact .setReg (beq_self_eq_true _)
  case add | sub | shr | subn | shl => cases h; exact .setRegFlag (by simp [writesReg]) (by simp [writesReg])
  case lda | adda | font => cases h; exact .setI rfl
  case sei | snei | ser | sner | skp | sknp => cases h; exact .skipIf rfl
  case cls => cases h; exact { disp := nofun }
  case ret => cases h; exact { pc := nofun, pcTarget := .inr (.inr (.inr (.inl ⟨_, rfl⟩))), sp := nofun }
  case jp nnn =>
    have := nnn.isLt
    cases h
    exact .setPc rfl (.inr (.inr (.inr (.inr (by rw [addrOperand_toNat]; omega)))))
  case jpv0 nnn =>
    have := nnn.isLt; have := (s.reg 0).isLt
    cases h
    exact .setPc rfl (.inr (.inr (.inr (.inr (by rw [toNat_jpv0Target]; omega)))))
  case call nnn =>
    have := nnn.isLt
    cases h
    have htarget : (addrOperand nnn).toNat ≤ 0x10FE := by rw [addrOperand_toNat]; omega
    refine { pc := nofun, sp := nofun, pcTarget := .inr (.inr (.inr (.inr htarget))), slot := fun k => ?_ }
    change s.pushPc.slot k = _ ∨ _ ∧ s.pushPc.slot k = _
    rw [State.slot_pushPc]
    by_cases hk : k = s.sp
    · exact .inr ⟨beq_iff_eq.2 hk, if_pos hk⟩
    · exact .inl (if_neg hk)
  case wkey =>
    cases h
    cases s.lowestKey
    · exact .setPc rfl (.inr (.inr (.inl rfl)))
    · exact .setReg (beq_self_eq_true _)
  case stdt => cases h; exact { dt := fun hne => absurd rfl (hne _) }
  case stst => cases h; exact { st := fun hne => absurd rfl (hne _) }

/-- No instruction changes a byte outside those it stores at `I` (10_state.md R43, column MEM). -/
theorem exec_byteAt {i : Instr} {s t : State} (h : exec i s = .next t) {a : Nat}
    (ha : a < s.dataBase ∨ s.dataBase + storedBytes i ≤ a) : t.byteAt a = s.byteAt a := by
  cases hacc : accessFaults i s
  case false => exact (exec_completes h hacc).byteAt ha
  case true => rw [exec_of_accessFaults hacc] at h; cases h; rfl

/-- Every instruction answers a next state (60_exceptions.md R200). -/
theorem exec_next (i : Instr) (s : State) : ∃ t, exec i s = .next t := by
  cases i <;> exact ⟨_, rfl⟩

/-- Settles O12: an instruction whose access is in range completes. -/
theorem onlyAnAccessOutOfRangeStopsAnInstruction : Obligations.OnlyAnAccessOutOfRangeStopsAnInstruction := by
  intro i s
  obtain ⟨t, ht⟩ := exec_next i s
  refine ⟨t, ht, fun hrange => ?_⟩
  have hacc : accessFaults i s = false := Bool.eq_false_iff.2 fun h => hrange ((accessFaults_true i s).1 h)
  have hc := exec_completes ht hacc
  exact ⟨hc.run, hc.fault⟩

/-- Settles O46: an access out of range raises, and `raise` writes RUN and FAULT alone; every other instruction
completes. -/
theorem instructionsWriteOnlyTheirWriteSet : Obligations.InstructionsWriteOnlyTheirWriteSet := by
  intro i s t h
  cases hacc : accessFaults i s
  case false =>
    have hc := exec_completes h hacc
    refine ⟨hc.reg, hc.index, hc.pc, hc.sp, fun k hk => ?_, hc.dt, hc.st, hc.disp, fun a ha => hc.byteAt ha,
      fun _ => ⟨hc.run, hc.fault⟩, nofun, hc.keys, hc.rnd, hc.inputs, hc.clock⟩
    exact (hc.slot k).resolve_right fun hslot => by simp [hk] at hslot
  case true =>
    rw [exec_of_accessFaults hacc] at h; cases h
    exact ⟨fun _ _ => rfl, fun _ => rfl, fun _ => rfl, fun _ => rfl, fun _ _ => rfl, fun _ => rfl, fun _ => rfl,
      fun _ => rfl, fun _ _ => rfl, nofun, fun _ => rfl, rfl, rfl, rfl, rfl⟩

end Sys2Proof.Machine
end

section
/-! PROOFS. The instruction cycle of 10_state.md R41, case by case, and the statements about one step. -/

namespace Sys2Proof.Machine

/-! ### The cycle -/

/-- Everything that one instruction cycle can do. -/
inductive Cycle (s : State) : State → Prop
  /-- a HALTED core does nothing (60_exceptions.md R210) -/
  | halted (hrun : s.run = .halted) : Cycle s s
  /-- the fetch is out of range (20_memory.md R70) -/
  | fetchFault (hrun : s.run = .running) (hw : s.fetchWord = none) : Cycle s s.raiseFetchFault
  /-- the word is illegal (60_exceptions.md R201) -/
  | illegal {w : Word} (hrun : s.run = .running) (hw : s.fetchWord = some w) (hd : decodeWord w = none) :
      Cycle s (s.advancePc.raiseIllegalOpcode w)
  /-- the instruction is executed -/
  | executed {w : Word} {i : Instr} {t : State} (hrun : s.run = .running) (hw : s.fetchWord = some w)
      (hd : decodeWord w = some i) (he : exec i s.advancePc = .next t) : Cycle s t

theorem coreCycle_halted {s : State} (hrun : s.run = .halted) : coreCycle s = .next s := by
  rw [coreCycle, hrun]

theorem coreCycle_fetchFault {s : State} (hrun : s.run = .running) (hw : s.fetchWord = none) :
    coreCycle s = .next s.raiseFetchFault := by
  rw [coreCycle, hrun, hw]

theorem coreCycle_illegal {s : State} {w : Word} (hrun : s.run = .running) (hw : s.fetchWord = some w)
    (hd : decodeWord w = none) : coreCycle s = .next (s.advancePc.raiseIllegalOpcode w) := by
  simp only [coreCycle, hrun, hw, hd]

theorem coreCycle_exec {s : State} {w : Word} {i : Instr} (hrun : s.run = .running) (hw : s.fetchWord = some w)
    (hd : decodeWord w = some i) : coreCycle s = exec i s.advancePc := by
  simp only [coreCycle, hrun, hw, hd]

/-- Every cycle answers a next state, by one of the four cases. -/
theorem coreCycle_next (s : State) : ∃ t, coreCycle s = .next t ∧ Cycle s t := by
  cases hrun : s.run
  case halted => exact ⟨s, coreCycle_halted hrun, .halted hrun⟩
  case running =>
    cases hw : s.fetchWord
    case none => exact ⟨_, coreCycle_fetchFault hrun hw, .fetchFault hrun hw⟩
    case some w =>
      cases hd : decodeWord w
      case none => exact ⟨_, coreCycle_illegal hrun hw hd, .illegal hrun hw hd⟩
      case some i =>
        obtain ⟨t, he⟩ := exec_next i s.advancePc
        exact ⟨t, (coreCycle_exec hrun hw hd).trans he, .executed hrun hw hd he⟩

theorem cycle_of_coreCycle {s t : State} (h : coreCycle s = .next t) : Cycle s t := by
  obtain ⟨u, hu, hc⟩ := coreCycle_next s
  cases h.symm.trans hu
  exact hc

/-- A fetch answers a word only at an address up to 4094 (20_memory.md R70). -/
theorem State.pc_le_of_fetchWord {s : State} {w : Word} (h : s.fetchWord = some w) : s.pc.toNat ≤ 4094 := by
  rw [State.fetchWord_eq] at h
  by_contra hpc
  rw [if_neg hpc] at h; cases h

theorem State.pc_gt_of_fetchWord {s : State} (h : s.fetchWord = none) : 4094 < s.pc.toNat := by
  rw [State.fetchWord_eq] at h
  by_contra hpc
  rw [if_pos (by omega)] at h; cases h

/-- An executed instruction that ends HALTED left the memory with its access. -/
theorem accessFaults_of_halts {i : Instr} {s t : State} (he : exec i s = .next t) (hrun : s.run = .running)
    (ht : t.run = .halted) : accessFaults i s = true := by
  by_contra hacc
  have hkeep := (exec_completes he (Bool.eq_false_iff.2 hacc)).run
  rw [hrun, ht] at hkeep; cases hkeep

/-! ### The invariant -/

/-- The bound of pc after an instruction that was fetched in range and completed (10_state.md R26). -/
theorem State.PcTarget.le {s : State} {p : Word} (h : s.PcTarget p) (hlo : 2 ≤ s.pc.toNat) (hhi : s.pc.toNat ≤ 4096)
    (hslot : ∀ k, (s.slot k).toNat ≤ 4096) : p.toNat ≤ 0x10FE := by
  rcases h with rfl | rfl | rfl | ⟨k, rfl⟩ | hle
  · omega
  · rw [State.toNat_pc_add_two s (by omega)]; omega
  · rw [State.toNat_pc_sub_two s hlo]; omega
  · have := hslot k; omega
  · exact hle

/-- Memory stays canonical: what an instruction stores lies in the range that was checked. -/
theorem Completes.mem_wf {i : Instr} {s t : State} (hc : Completes i s t) (hacc : accessFaults i s = false)
    (h : Memory.wf s.mem = true) : Memory.wf t.mem = true := by
  rcases hc.mem with hmem | ⟨bs, hlen, hmem⟩
  · rw [hmem]; exact h
  · rw [hmem]
    have hle := storedBytes_le i
    rcases (accessFaults_false i s).1 hacc with hzero | hrange
    · rw [List.eq_nil_of_length_eq_zero (by omega : bs.length = 0)]; exact h
    · exact Memory.wf_writeBytes bs _ _ h (by simp only [Config.memSize]; omega)

theorem State.toNat_advancePc {s : State} (h : s.pc.toNat ≤ 4094) : s.advancePc.pc.toNat = s.pc.toNat + 2 :=
  State.toNat_pc_add_two s (by omega)

theorem State.Inv.raiseFetchFault {s : State} (h : s.Inv) (hw : s.fetchWord = none) : s.raiseFetchFault.Inv where
  memory := h.memory
  pcBounded := h.pcBounded
  faultLatched :=
    have hinfo := outOfRangeInfo_toNat s.pc.toNat s.pc_lt
    .inr ⟨rfl, .inr (.inl ⟨rfl, State.pc_gt_of_fetchWord hw, rfl, hinfo⟩)⟩

/-- With pc in the range of a fetch, it may be advanced. -/
theorem State.PcBounded.advancePc {s : State} (h : s.PcBounded) (hpc : s.pc.toNat ≤ 4094) :
    s.advancePc.PcBounded := by
  refine ⟨?_, h.2⟩
  rw [State.toNat_advancePc hpc]; omega

/-- A fault after the advance records the address that the word was fetched from (60_exceptions.md R201, R202). -/
theorem State.toNat_insnAddr_advancePc {s : State} (hpc : s.pc.toNat ≤ 4094) :
    s.advancePc.insnAddr.toNat ≤ 4094 ∧ s.advancePc.pc.toNat = s.advancePc.insnAddr.toNat + 2 := by
  have hback : s.advancePc.insnAddr = s.pc := by simp
  rw [hback]
  exact ⟨hpc, State.toNat_advancePc hpc⟩

theorem State.Inv.raiseIllegalOpcode {s : State} {w : Word} (h : s.Inv) (hw : s.fetchWord = some w)
    (hd : decodeWord w = none) : (s.advancePc.raiseIllegalOpcode w).Inv := by
  have hpc := State.pc_le_of_fetchWord hw
  obtain ⟨hfpc, hnext⟩ := State.toNat_insnAddr_advancePc hpc
  exact ⟨h.memory, h.pcBounded.advancePc hpc, .inr ⟨rfl, .inl ⟨rfl, hd, hfpc, hnext⟩⟩⟩

theorem State.Inv.raiseDataFault {i : Instr} {s : State} (h : s.Inv) (hpc : s.pc.toNat ≤ 4094)
    (hacc : accessFaults i s.advancePc = true) : s.advancePc.raiseDataFault.Inv := by
  obtain ⟨hfpc, hnext⟩ := State.toNat_insnAddr_advancePc hpc
  have hinfo := outOfRangeInfo_toNat s.i.toNat s.i_lt
  have hlast : 4096 < s.i.toNat + 16 := by
    have hbytes := dataBytes_le i
    have hrange : 4096 < s.i.toNat + dataBytes i := ((accessFaults_true i _).1 hacc).2
    omega
  exact ⟨h.memory, h.pcBounded.advancePc hpc, .inr ⟨rfl, .inr (.inr ⟨rfl, hfpc, hnext, hinfo, hlast⟩)⟩⟩

theorem State.Inv.completes {i : Instr} {s t : State} (h : s.Inv) (hrun : s.run = .running)
    (hpc : s.pc.toNat ≤ 4094) (hacc : accessFaults i s.advancePc = false) (hc : Completes i s.advancePc t) :
    t.Inv := by
  obtain ⟨-, hslots⟩ := h.pcBounded
  have hadv := State.toNat_advancePc hpc
  refine ⟨hc.mem_wf hacc h.memory, ⟨hc.pcTarget.le (by omega) (by omega) hslots, fun k => ?_⟩, .inl ?_⟩
  · rcases hc.slot k with hk | ⟨-, hk⟩ <;> rw [hk]
    · exact hslots k
    · omega
  · rw [hc.run, hc.fault]
    exact h.faultLatched.resolve_right fun hlatch => by simp [hrun] at hlatch

/-- One instruction cycle keeps the invariant, in each of its four cases. -/
theorem State.Inv.coreCycle {s t : State} (h : s.Inv) (hstep : coreCycle s = .next t) : t.Inv := by
  cases cycle_of_coreCycle hstep
  case halted => exact h
  case fetchFault hrun hw => exact h.raiseFetchFault hw
  case illegal w hrun hw hd => exact h.raiseIllegalOpcode hw hd
  case executed w i hrun hw hd he =>
    have hpc := State.pc_le_of_fetchWord hw
    cases hacc : accessFaults i s.advancePc
    case false => exact h.completes hrun hpc hacc (exec_completes he hacc)
    case true =>
      rw [exec_of_accessFaults hacc] at he; cases he
      exact h.raiseDataFault hpc hacc

/-- The start of a step, the sampling and a tick touch nothing that the invariant speaks of. -/
theorem State.Inv.beginStep {s : State} (h : s.Inv) : s.beginStep.Inv := ⟨h.memory, h.pcBounded, h.faultLatched⟩
theorem State.Inv.sample {s : State} (h : s.Inv) (keys : Word) (rnd : Byte) : (s.sample keys rnd).Inv :=
  ⟨h.memory, h.pcBounded, h.faultLatched⟩
theorem State.Inv.tick {s : State} (h : s.Inv) : s.tick.Inv := ⟨h.memory, h.pcBounded, h.faultLatched⟩

/-- Settles O49: the start of a step, then a cycle. -/
theorem stepKeepsTheInvariant : Obligations.StepKeepsTheInvariant :=
  fun _ _ h hstep => h.beginStep.coreCycle hstep

/-- Every slot is 0 after reset. -/
theorem State.slot_reset (k : Nibble) : State.reset.slot k = 0 := Vector.getElem_replicate _

theorem State.inv_booted {image : List Byte} (h : image.length ≤ 3584) (inputs : List HostInput) (clock : Nat) :
    State.Inv { State.booted image with inputs := inputs, clock := clock } where
  memory := State.booted_wf image h
  pcBounded :=
    ⟨show State.reset.pc.toNat ≤ 0x10FE by decide,
      fun k => (congrArg BitVec.toNat (State.slot_reset k)).trans_le (Nat.zero_le _)⟩
  faultLatched := .inl ⟨rfl, rfl⟩

/-- Settles O51: reset is a load of the empty image. -/
theorem resetMeetsTheInvariant : Obligations.ResetMeetsTheInvariant :=
  State.inv_booted (image := []) (Nat.zero_le _) [] 0

/-- Settles O50: move by move; too long an image answers no state. -/
theorem everyMoveKeepsTheInvariant : Obligations.EveryMoveKeepsTheInvariant := by
  intro m s t h hmove
  cases m
  case reset image =>
    change s.hostReset image = _ at hmove
    rw [State.hostReset_eq] at hmove
    split at hmove
    · rename_i hlen
      cases hmove; exact State.inv_booted hlen _ _
    · cases hmove
  case tick => cases hmove; exact h.tick
  case cycle keys rnd => exact (h.sample keys rnd).coreCycle hmove

/-! ### One step -/

/-- The two bytes at pc decode to the instruction exactly when the fetched word does. -/
theorem fetch_of_decode {s : State} {i : Instr} (hpc : s.pc.toNat ≤ 4094)
    (h : decode [s.byteAt s.pc.toNat, s.byteAt (s.pc.toNat + 1)] = .ok (i, [])) :
    ∃ w, s.fetchWord = some w ∧ decodeWord w = some i := by
  refine ⟨_, (s.fetchWord_eq).trans (if_pos hpc), ?_⟩
  rw [decode] at h
  split at h <;> cases h
  assumption

/-- Settles O7: the executed case of the cycle, after the start of a step. -/
theorem stepRunsTheDecodedInstruction : Obligations.StepRunsTheDecodedInstruction := by
  intro s i hrun hpc hdec
  obtain ⟨w, hw, hd⟩ := fetch_of_decode hpc hdec
  exact coreCycle_exec (s := s.beginStep) hrun hw hd

/-- Settles O8: the executed case of the cycle, under the given inputs. -/
theorem cycleMoveRunsTheDecodedInstruction : Obligations.CycleMoveRunsTheDecodedInstruction := by
  intro s i keys rnd hrun hpc hdec
  obtain ⟨w, hw, hd⟩ := fetch_of_decode hpc hdec
  exact coreCycle_exec (s := s.sample keys rnd) hrun hw hd

/-- Settles O9: both outcomes of a fetch, and the cycle after the second. -/
theorem fetchReadsTwoBytesOrFaults : Obligations.FetchReadsTwoBytesOrFaults := by
  intro s keys rnd hrun
  refine ⟨fun hpc => (s.fetchWord_eq).trans (if_pos hpc), fun hpc => ?_⟩
  have hw : s.fetchWord = none := (s.fetchWord_eq).trans (if_neg (by omega))
  refine ⟨outOfRangeInfo s.pc.toNat, outOfRangeInfo_toNat _ s.pc_lt, fun hlast => ?_,
    coreCycle_fetchFault (s := s.sample keys rnd) hrun hw⟩
  rw [hlast]; rfl

/-- Settles O13: the four cases of the cycle, HALTED before being excluded. -/
theorem stepHaltsOnlyByAListedFault : Obligations.StepHaltsOnlyByAListedFault := by
  intro s
  obtain ⟨t, ht, hc⟩ := coreCycle_next s.beginStep
  refine ⟨t, ht, fun hrun hhalt => ?_⟩
  cases hc
  case halted hrun' => exact absurd (hrun.symm.trans hrun') nofun
  case fetchFault hw => exact .inl ⟨rfl, hw⟩
  case illegal w _ hw hd => exact .inr (.inl ⟨w, rfl, hw, hd⟩)
  case executed w i _ hw hd he =>
    have hacc := accessFaults_of_halts he hrun hhalt
    rw [exec_of_accessFaults hacc] at he; cases he
    obtain ⟨hpos, hrange⟩ := (accessFaults_true i _).1 hacc
    exact .inr (.inr ⟨w, i, rfl, hw, hd, hpos, hrange⟩)

theorem stepResult_of_next {s t : State} (h : step s = .next t) :
    stepResult s = if t.run = .halted then .fault else if s.beginStep.awaitsKey then .awaitingKey else .done := by
  rw [stepResult, h]

/-- Settles O14: the HALTED case of the cycle. -/
theorem haltedStepChangesOnlyTimersAndInputs : Obligations.HaltedStepChangesOnlyTimersAndInputs := by
  intro s hrun
  have hstep : step s = .next s.beginStep := coreCycle_halted (s := s.beginStep) hrun
  exact ⟨(stepResult_of_next hstep).trans (if_pos hrun), hstep⟩

theorem State.awaitsKey_iff (s : State) :
    s.awaitsKey = true ↔ s.keys = 0 ∧ ∃ x, s.fetchWord.bind decodeWord = some (.wkey x) := by
  rw [State.awaitsKey]
  split
  · rename_i x hx
    simp [hx]
  · rename_i hne
    simpa using fun _ x hx => hne x hx

/-- A key wait takes no fault. -/
theorem running_of_wkey {s t : State} {x : Nibble} (hstep : coreCycle s = .next t) (hrun : s.run = .running)
    (h : s.fetchWord.bind decodeWord = some (.wkey x)) : t.run = .running := by
  obtain ⟨w, hw, hd⟩ := Option.bind_eq_some_iff.1 h
  rw [coreCycle_exec hrun hw hd] at hstep
  exact (exec_completes hstep rfl).run.trans hrun

/-- Settles O16: the two tests of `stepResult`, each read back from the case of the cycle. -/
theorem stepResultIsAsTheCycleReturns : Obligations.StepResultIsAsTheCycleReturns := by
  intro s t hstep
  rw [stepResult_of_next hstep]
  by_cases hhalt : t.run = .halted
  · rw [if_pos hhalt]
    refine ⟨iff_of_true rfl hhalt, iff_of_false nofun ?_⟩
    rintro ⟨hrun, -, x, hx⟩
    have := running_of_wkey (s := s.beginStep) hstep hrun hx
    rw [hhalt] at this; cases this
  · have hrun : s.run = .running := by
      cases hr : s.run
      · rfl
      · cases hstep.symm.trans (coreCycle_halted (s := s.beginStep) hr)
        exact absurd hr hhalt
    have hawait : s.beginStep.awaitsKey = true ↔
        s.nextInput.keys = 0 ∧ ∃ x, s.fetchWord.bind decodeWord = some (.wkey x) := s.beginStep.awaitsKey_iff
    rw [if_neg hhalt, ← hawait]
    cases s.beginStep.awaitsKey <;> simp [hhalt, hrun]

/-! ### Reset and the host's writes -/

/-- Settles O19: each value by computation. -/
theorem resetLeavesTheStatedValues : Obligations.ResetLeavesTheStatedValues :=
  ⟨fun _ => Vector.getElem_replicate _, State.slot_reset, Display.get_blank, fun _ => rfl, rfl, rfl, rfl, rfl, rfl,
    rfl, rfl, rfl, fun _ => rfl⟩

/-- A cycle that ends HALTED writes no byte (decision D13). -/
theorem Cycle.mem_of_halted {s t : State} (hc : Cycle s t) (ht : t.run = .halted) : t.mem = s.mem := by
  cases hc
  case halted | fetchFault | illegal => rfl
  case executed hrun _ _ he =>
    rw [exec_of_accessFaults (accessFaults_of_halts he hrun ht)] at he; cases he
    rfl

/-- A byte that a cycle changes is one that its instruction stores. -/
theorem Cycle.stored_of_byteAt_ne {s t : State} (hc : Cycle s t) {a : Nat} (ha : t.byteAt a ≠ s.byteAt a) :
    ∃ i, s.run = .running ∧ s.fetchWord.bind decodeWord = some i ∧
      s.dataBase ≤ a ∧ a < s.dataBase + storedBytes i := by
  cases hc
  case halted | fetchFault | illegal => exact absurd rfl ha
  case executed w i hrun hw hd he =>
    have hfetch : s.fetchWord.bind decodeWord = some i := by rw [hw]; exact hd
    have hin : ¬(a < s.dataBase ∨ s.dataBase + storedBytes i ≤ a) := fun hout => ha (exec_byteAt he hout)
    exact ⟨i, hrun, hfetch, by omega, by omega⟩

/-- Settles O52: by the cases of the cycle. -/
theorem onlyResetAndStoresWriteMemory : Obligations.OnlyResetAndStoresWriteMemory := by
  intro s
  refine ⟨fun t ht => by cases ht; rfl, fun keys rnd t ht => ?_⟩
  have hc : Cycle (s.sample keys rnd) t := cycle_of_coreCycle ht
  exact ⟨fun hhalt => hc.mem_of_halted hhalt, fun a ha => hc.stored_of_byteAt_ne ha⟩

end Sys2Proof.Machine
end

section
/-! PROOFS. Calls and returns, the random byte and the keypad; and what no instruction reads. -/

namespace Sys2Proof.Machine

/-! ### Calls and returns -/

/-- Settles O24: the laws of a push, of a pop and of the indexed sum. -/
theorem callReturnAndIndexedJump : Obligations.CallReturnAndIndexedJump :=
  ⟨fun nnn s => ⟨_, rfl, rfl, addrOperand_toNat nnn, s.toNat_sp_add_one, s.slot_pushPc⟩,
    fun _ s => ⟨_, rfl, rfl, s.toNat_sp_sub_one, rfl⟩,
    fun nnn s => ⟨_, rfl, rfl, toNat_jpv0Target nnn s⟩⟩

/-- One call of a chain: SP goes up by 1, and the slot that it named holds the call's return address. -/
theorem CallChain.of_cons {s t : State} {c : Word × Addr12} {cs : List (Word × Addr12)}
    (h : CallChain s (c :: cs) t) :
    ∃ u, CallChain u cs t ∧ u.sp = s.sp + 1 ∧ ∀ k, u.slot k = if k = s.sp then c.1 else s.slot k := by
  obtain ⟨u, hcall, hrest⟩ := h
  cases hcall
  exact ⟨_, hrest, rfl, State.slot_pushPc _⟩

/-- Slots are counted modulo 16: the one `m + 1` above SP is the one `m` above the next SP. -/
theorem sp_add_succ (p : Nibble) (m : Nat) : p + BitVec.ofNat 4 (m + 1) = p + 1 + BitVec.ofNat 4 m := by
  rw [Nat.add_comm m 1, BitVec.ofNat_add, BitVec.add_assoc]; rfl

theorem sp_add_ne (p : Nibble) {m : Nat} (hlo : 0 < m) (hhi : m < 16) : p + BitVec.ofNat 4 m ≠ p := by
  rw [Ne, add_eq_left, ← BitVec.toNat_inj, BitVec.toNat_ofNat]
  change m % 16 ≠ 0
  omega

theorem CallChain.sp {cs : List (Word × Addr12)} {s t : State} (h : CallChain s cs t) :
    t.sp = s.sp + BitVec.ofNat 4 cs.length := by
  induction cs generalizing s with
  | nil => cases h; exact (BitVec.add_zero _).symm
  | cons c cs ih =>
    obtain ⟨u, hrest, hsp, -⟩ := h.of_cons
    rw [ih hrest, hsp, List.length_cons, sp_add_succ]

/-- A slot that the chain's calls do not come to, going round the 16, is kept. -/
theorem CallChain.slot_kept {cs : List (Word × Addr12)} {s t : State} (h : CallChain s cs t) {m : Nat}
    (hlo : cs.length ≤ m) (hhi : m < 16) : t.slot (s.sp + BitVec.ofNat 4 m) = s.slot (s.sp + BitVec.ofNat 4 m) := by
  induction cs generalizing s m with
  | nil => cases h; rfl
  | cons c cs ih =>
    obtain ⟨u, hrest, hsp, hslot⟩ := h.of_cons
    rw [List.length_cons] at hlo
    obtain ⟨m, rfl⟩ : ∃ k, m = k + 1 := ⟨m - 1, by omega⟩
    have hne : s.sp + BitVec.ofNat 4 (m + 1) ≠ s.sp := sp_add_ne s.sp m.succ_pos hhi
    have hkept := ih hrest (m := m) (by omega) (by omega)
    rw [hsp, ← sp_add_succ] at hkept
    rw [hkept, hslot, if_neg hne]

/-- The return address of a call stands in its slot until 16 more calls have been made. -/
theorem CallChain.slot {cs : List (Word × Addr12)} {s t : State} (h : CallChain s cs t) {k : Nat}
    (hk : k < cs.length) (hlast : cs.length ≤ k + 16) : t.slot (s.sp + BitVec.ofNat 4 k) = (cs[k]).1 := by
  induction cs generalizing s k with
  | nil => simp at hk
  | cons c cs ih =>
    obtain ⟨u, hrest, hsp, hslot⟩ := h.of_cons
    rw [List.length_cons] at hk hlast
    cases k with
    | zero =>
      have hround : s.sp + BitVec.ofNat 4 0 = u.sp + BitVec.ofNat 4 15 := by
        rw [hsp, ← sp_add_succ]; rfl
      rw [hround, hrest.slot_kept (by omega) (by omega), ← hround, hslot, if_pos (BitVec.add_zero _)]
      rfl
    | succ k =>
      rw [sp_add_succ, ← hsp]
      exact ih hrest (by omega) (by omega)

/-- Settles O26: of a chain of 17 the calls from the second on are the last 16. -/
theorem seventeenthCallOverwritesTheOldest : Obligations.SeventeenthCallOverwritesTheOldest :=
  fun _ _ _ h => ⟨h.sp, fun _ _ hk => h.slot hk (by omega), fun _ _ hk _ => h.slot hk (by omega)⟩

/-! ### The random byte and the keypad -/

/-- Settles O39: a write to one register. -/
theorem randomByteIsMasked : Obligations.RandomByteIsMasked := by
  intro x nn s
  refine ⟨_, rfl, rfl, fun b => ?_, fun j hj => ?_⟩
  · rw [State.reg_setReg, if_pos rfl, BitVec.getLsbD_and]
  · rw [State.reg_setReg, if_neg hj]

/-- Settles O40: a skip on `pressed`. -/
theorem keySkipsTestTheSnapshot : Obligations.KeySkipsTestTheSnapshot := by
  intro x s
  have hpressed : s.pressed (s.reg x) = true ↔ (s.reg x).toNat ≤ 15 ∧ s.keys.getLsbD (s.reg x).toNat = true := by
    rw [State.pressed_eq, Bool.and_eq_true, decide_eq_true_eq]
  simp only [← hpressed]
  change Host.Outcome.next (s.skipIf (s.pressed (s.reg x))) = _ ∧
    Host.Outcome.next (s.skipIf (!s.pressed (s.reg x))) = _
  cases s.pressed (s.reg x) <;> exact ⟨rfl, rfl⟩

theorem exec_wkey_none {s : State} (x : Nibble) (h : s.lowestKey = none) :
    exec (.wkey x) s = .next (s.setPc (s.pc - 2)) := by
  change execWkey x s = _
  rw [execWkey, h, State.rewindPc_eq]

theorem exec_wkey_some {s : State} (x : Nibble) {k : Nat} (h : s.lowestKey = some k) :
    exec (.wkey x) s = .next (s.setReg x (BitVec.ofNat 8 k)) := by
  change execWkey x s = _
  rw [execWkey, h]

/-- Settles O41: both answers of the search for the least held key. -/
theorem keyWaitRewindsOrLoadsTheLeastKey : Obligations.KeyWaitRewindsOrLoadsTheLeastKey := by
  intro x s
  refine ⟨fun hkeys => exec_wkey_none x (s.lowestKey_none.2 hkeys), fun hkeys => ?_⟩
  obtain ⟨k, hk⟩ := Option.ne_none_iff_exists'.1 (mt s.lowestKey_none.1 hkeys)
  obtain ⟨hlt, hheld, hleast⟩ := s.lowestKey_some k hk
  refine ⟨_, k, exec_wkey_some x hk, rfl, hlt, hheld, hleast, ?_, fun j hj => ?_⟩
  · rw [State.reg_setReg, if_pos rfl, BitVec.toNat_ofNat]; omega
  · rw [State.reg_setReg, if_neg hj]

/-! ### What no instruction reads -/

/-- The state with other timers, RUN and FAULT. -/
def State.withHidden (s : State) (dt st : Byte) (run : RunState) (fault : FaultRecord) : State :=
  { s with dt := dt, st := st, run := run, fault := fault }

/-- `u` is what `t` becomes when its instruction began with other timers, RUN and FAULT: it differs in these alone,
and one that began the same ends the same. -/
structure SameButHidden (s t : State) (dt st : Byte) (run : RunState) (fault : FaultRecord) (u : State) : Prop where
  rest : u = t.withHidden u.dt u.st u.run u.fault := by rfl
  dt : dt = s.dt → u.dt = t.dt := by exact id
  st : st = s.st → u.st = t.st := by exact id
  run : run = s.run → u.run = t.run := by exact id
  fault : fault = s.fault → u.fault = t.fault := by exact id

section
variable {s : State} {dt st : Byte} {run : RunState} {fault : FaultRecord}

theorem SameButHidden.skipIf (c : Bool) :
    SameButHidden s (s.skipIf c) dt st run fault ((s.withHidden dt st run fault).skipIf c) := by
  cases c <;> exact {}

/-- An access that faults in one state does in the other, since DT, ST, RUN and FAULT have no part in its range. -/
theorem SameButHidden.orRaise (b : Bool) {t u : State} (h : SameButHidden s t dt st run fault u) :
    SameButHidden s (if b then s.raiseDataFault else t) dt st run fault
      (if b then (s.withHidden dt st run fault).raiseDataFault else u) := by
  cases b
  · exact h
  · exact { run := fun _ => rfl, fault := fun _ => rfl }

/-- DT, where the instruction is not LDDT, and ST, RUN and FAULT reach no other field of the next state. -/
theorem exec_withHidden {i : Instr} {t : State} (h : exec i s = .next t)
    (hdt : (∃ x, i = .lddt x) → dt = s.dt) :
    ∃ u, exec i (s.withHidden dt st run fault) = .next u ∧ SameButHidden s t dt st run fault u := by
  cases i
  case lddt x =>
    obtain rfl := hdt ⟨x, rfl⟩
    cases h; exact ⟨_, rfl, {}⟩
  case drw => rw [exec_drw] at h; cases h; exact ⟨_, exec_drw .., .orRaise _ {}⟩
  case ldm => rw [exec_ldm] at h; cases h; exact ⟨_, exec_ldm .., .orRaise _ {}⟩
  case bcd => rw [exec_bcd] at h; cases h; exact ⟨_, exec_bcd .., .orRaise _ {}⟩
  case stm => rw [exec_stm] at h; cases h; exact ⟨_, exec_stm .., .orRaise _ {}⟩
  case sei | snei | ser | sner | skp | sknp => cases h; exact ⟨_, rfl, .skipIf _⟩
  case wkey x =>
    cases hkey : s.lowestKey
    case none => rw [exec_wkey_none x hkey] at h; cases h; exact ⟨_, exec_wkey_none x hkey, {}⟩
    case some => rw [exec_wkey_some x hkey] at h; cases h; exact ⟨_, exec_wkey_some x hkey, {}⟩
  case stdt => cases h; exact ⟨_, rfl, { dt := fun _ => rfl }⟩
  case stst => cases h; exact ⟨_, rfl, { st := fun _ => rfl }⟩
  -- every other meaning is one update of another field
  all_goals cases h; exact ⟨_, rfl, {}⟩

end

/-- Settles O48: one field at a time, the others being replaced by their own values. -/
theorem timersAndLatchAreReadByNoOtherInstruction : Obligations.TimersAndLatchAreReadByNoOtherInstruction := by
  intro i s t h
  refine ⟨fun hne b => ?_, fun b => ?_, fun r f => ?_⟩
  · obtain ⟨u, hu, hsame⟩ := exec_withHidden (dt := b) (st := s.st) (run := s.run) (fault := s.fault) h
      fun ⟨x, hx⟩ => absurd hx (hne x)
    refine ⟨u, hu, hsame.rest.trans ?_⟩
    rw [hsame.st rfl, hsame.run rfl, hsame.fault rfl]; rfl
  · obtain ⟨u, hu, hsame⟩ := exec_withHidden (dt := s.dt) (st := b) (run := s.run) (fault := s.fault) h
      fun _ => rfl
    refine ⟨u, hu, hsame.rest.trans ?_⟩
    rw [hsame.dt rfl, hsame.run rfl, hsame.fault rfl]; rfl
  · obtain ⟨u, hu, hsame⟩ := exec_withHidden (dt := s.dt) (st := s.st) (run := r) (fault := f) h fun _ => rfl
    refine ⟨u, hu, hsame.rest.trans ?_⟩
    rw [hsame.dt rfl, hsame.st rfl]; rfl

end Sys2Proof.Machine
end

section
/-! PROOFS. Drawing a sprite (45_display.md R181): a part of the draw loop is described by the set of places that it
puts a 1 bit over, parts that have no place in common are joined, and so bit by bit and row by row. -/

namespace Sys2Proof.Machine

/-- The canvas `c'` is `c` with the pixels of `lit` inverted, and a collision is one of before or a set pixel that was
inverted. -/
structure Canvas.Drawn (c c' : Canvas) (lit : Nat → Nat → Bool) : Prop where
  disp : ∀ px py, px < 64 → py < 32 → Display.get c'.disp px py = (Display.get c.disp px py ^^ lit px py)
  coll : c'.coll = true ↔ c.coll = true ∨
    ∃ px py, px < 64 ∧ py < 32 ∧ Display.get c.disp px py = true ∧ lit px py = true

namespace Canvas.Drawn

theorem none (c : Canvas) {lit : Nat → Nat → Bool} (h : ∀ px py, px < 64 → py < 32 → lit px py = false) :
    Drawn c c lit where
  disp px py hx hy := by rw [h px py hx hy, Bool.xor_false]
  coll := ⟨.inl, fun hc => hc.resolve_right fun ⟨px, py, hx, hy, _, hlit⟩ => by simp [h px py hx hy] at hlit⟩

/-- Two parts of a draw that have no place in common, one after the other. -/
theorem trans {c c' c'' : Canvas} {lit lit' lit'' : Nat → Nat → Bool} (h : Drawn c c' lit) (h' : Drawn c' c'' lit')
    (hdisj : ∀ px py, lit px py = true → lit' px py = false)
    (hlit : ∀ px py, lit'' px py = (lit px py || lit' px py)) : Drawn c c'' lit'' where
  disp px py hx hy := by
    rw [h'.disp px py hx hy, h.disp px py hx hy, hlit]
    have := hdisj px py
    cases hl : lit px py <;> simp_all
  coll := by
    -- the second part meets the pixels of before: the first one has left its places alone
    have hsame : ∀ px py, px < 64 → py < 32 → lit' px py = true →
        Display.get c'.disp px py = Display.get c.disp px py := by
      intro px py hx hy hl'
      have hl : lit px py = false := by
        by_contra hl
        simp [hdisj px py (by simpa using hl)] at hl'
      rw [h.disp px py hx hy, hl, Bool.xor_false]
    rw [h'.coll, h.coll, or_assoc]
    refine or_congr_right ⟨?_, ?_⟩
    · rintro (⟨px, py, hx, hy, hd, hl⟩ | ⟨px, py, hx, hy, hd, hl⟩)
      · exact ⟨px, py, hx, hy, hd, by rw [hlit, hl]; rfl⟩
      · exact ⟨px, py, hx, hy, hsame px py hx hy hl ▸ hd, by rw [hlit, hl, Bool.or_true]⟩
    · rintro ⟨px, py, hx, hy, hd, hl⟩
      rw [hlit, Bool.or_eq_true] at hl
      rcases hl with hl | hl
      · exact .inl ⟨px, py, hx, hy, hd, hl⟩
      · exact .inr ⟨px, py, hx, hy, (hsame px py hx hy hl).trans hd, hl⟩

/-- One bit: its place, when the bit is 1; a place off the grid is none. -/
theorem drawBit (c : Canvas) (x y : Nat) (bit : Bool) :
    Drawn c (c.drawBit x y bit) fun px py => decide (px = x ∧ py = y) && bit := by
  rcases c.drawBit_cases x y bit with ⟨hclip, heq⟩ | ⟨⟨hx, hy, rfl⟩, heq⟩ <;> rw [heq]
  · refine none c fun px py hx hy => ?_
    by_contra hlit
    simp only [Bool.not_eq_false, Bool.and_eq_true, decide_eq_true_eq] at hlit
    obtain ⟨⟨rfl, rfl⟩, hbit⟩ := hlit
    exact hclip ⟨hx, hy, hbit⟩
  · refine ⟨fun px py _ _ => ?_, ?_⟩
    · rw [Display.get_toggle _ _ _ _ _ hx hy]
      by_cases h : px = x ∧ py = y <;> simp [h]
    · simp only [Bool.or_eq_true, Bool.and_true, decide_eq_true_eq]
      refine or_congr_right ⟨fun hset => ⟨x, y, hx, hy, hset, rfl, rfl⟩, ?_⟩
      rintro ⟨_, _, _, _, hset, rfl, rfl⟩
      exact hset

/-- The first `m` columns of a row: the places of its 1 bits. -/
theorem drawCols (c : Canvas) (x0 y : Nat) (row : Byte) (m : Nat) :
    Drawn c ((List.range m).foldl (fun c col => c.drawBit (x0 + col) y (spriteBit row col)) c) fun px py =>
      decide (x0 ≤ px ∧ px < x0 + m ∧ py = y) && spriteBit row (px - x0) := by
  induction m with
  | zero => exact none c fun px py _ _ => by simp; omega
  | succ m ih =>
    rw [List.range_succ, List.foldl_append]
    refine ih.trans (drawBit _ (x0 + m) y (spriteBit row m)) (fun px py hl => ?_) fun px py => ?_
    · have : px ≠ x0 + m := by simp at hl; omega
      simp [this]
    · by_cases hpx : px = x0 + m
      · simp [hpx]
      · have : px < x0 + (m + 1) ↔ px < x0 + m := by omega
        simp [hpx, this]

theorem drawRow (c : Canvas) (x0 y : Nat) (row : Byte) :
    Drawn c (c.drawRow x0 y row) fun px py =>
      decide (x0 ≤ px ∧ px < x0 + 8 ∧ py = y) && spriteBit row (px - x0) := drawCols c x0 y row 8

/-- All rows, from display row `y` down. -/
theorem drawRows (rows : List Byte) (c : Canvas) (x0 y : Nat) :
    Drawn c (c.drawRows x0 y rows) fun px py =>
      decide (x0 ≤ px ∧ px < x0 + 8 ∧ y ≤ py ∧ py < y + rows.length) &&
        spriteBit (rows.getD (py - y) 0) (px - x0) := by
  induction rows generalizing c y with
  | nil => exact none c fun px py _ _ => by simp
  | cons row rows ih =>
    refine (drawRow c x0 y row).trans (ih _ (y + 1)) (fun px py hl => ?_) fun px py => ?_
    · have : py = y := by simp at hl; omega
      simp [this]
    · by_cases hpy : py = y
      · subst hpy; simp
      · by_cases hbelow : y < py
        · have hsub : py - y = py - (y + 1) + 1 := by omega
          have hrange : (y ≤ py ∧ py < y + (rows.length + 1)) ↔ (y + 1 ≤ py ∧ py < y + 1 + rows.length) := by
            omega
          simp only [List.length_cons, hsub, List.getD_cons_succ, hrange, hpy, and_false, decide_false,
            Bool.false_and, Bool.false_or]
        · have habove : ¬y ≤ py := by omega
          have habove' : ¬y + 1 ≤ py := by omega
          simp [hpy, habove, habove']

end Canvas.Drawn

/-- What the sprite in memory has over a pixel, in terms of the bytes that DRW reads. -/
theorem spriteLit_eq (s : State) (x0 y0 n px py : Nat) :
    spriteLit s x0 y0 n px py =
      (decide (x0 ≤ px ∧ px < x0 + 8 ∧ y0 ≤ py ∧ py < y0 + (Memory.readBytes s.mem s.dataBase n).length) &&
        spriteBit ((Memory.readBytes s.mem s.dataBase n).getD (py - y0) 0) (px - x0)) := by
  rw [Memory.length_readBytes, Memory.getD_readBytes]
  by_cases hpy : py - y0 < n
  · simp [spriteLit, spriteBit, hpy, State.byteAt, Bool.and_assoc]
  · have hout : y0 ≤ py → ¬py < y0 + n := by omega
    by_cases hlow : y0 ≤ py
    · simp [spriteLit, hout hlow]
    · simp [spriteLit, hlow]

/-- The draw loop over the bytes at `I` puts the sprite of `n` rows on the display. -/
theorem Canvas.Drawn.sprite (s : State) (x0 y0 n : Nat) :
    Drawn ⟨s.disp, false⟩ (Canvas.drawRows ⟨s.disp, false⟩ x0 y0 (Memory.readBytes s.mem s.dataBase n))
      (spriteLit s x0 y0 n) := by
  have hdrawn := drawRows (Memory.readBytes s.mem s.dataBase n) ⟨s.disp, false⟩ x0 y0
  simpa only [← spriteLit_eq] using hdrawn

theorem collisionFlag_eq_one (coll : Bool) : collisionFlag coll = 1 ↔ coll = true := by
  cases coll <;> decide

theorem collisionFlag_zero_or_one (coll : Bool) : collisionFlag coll = 0 ∨ collisionFlag coll = 1 := by
  cases coll <;> decide

theorem State.reg_drawSprite (s : State) (x0 y0 : Nat) (rows : List Byte) (j : Nibble) :
    (s.drawSprite x0 y0 rows).reg j =
      if j = 0xF then collisionFlag (Canvas.drawRows ⟨s.disp, false⟩ x0 y0 rows).coll else s.reg j :=
  State.reg_setReg _ 0xF j _

theorem exec_drw_of_inRange {x y n : Nibble} {s : State} (h : n = 0 ∨ s.dataBase + n.toNat ≤ 4096) :
    exec (.drw x y n) s = .next
      (s.drawSprite (s.spriteCol x) (s.spriteRow y) (Memory.readBytes s.mem s.dataBase n.toNat)) := by
  have hacc : accessFaults (.drw x y n) s = false :=
    (accessFaults_false _ s).2 (h.imp_left (congrArg BitVec.toNat))
  rw [exec_drw, hacc]; rfl

/-- Settles O44: the draw loop as a whole, and VF from its collision. -/
theorem drawXorsTheSpriteAndFlagsCollision : Obligations.DrawXorsTheSpriteAndFlagsCollision := by
  intro x y n s hrange
  have hdrawn := Canvas.Drawn.sprite s (s.spriteCol x) (s.spriteRow y) n.toNat
  refine ⟨_, exec_drw_of_inRange hrange, rfl, hdrawn.disp, ?_, ?_, fun j hj => ?_⟩
  · rw [State.reg_drawSprite, if_pos rfl]
    exact collisionFlag_zero_or_one _
  · rw [State.reg_drawSprite, if_pos rfl, collisionFlag_eq_one, hdrawn.coll]
    exact ⟨fun h => h.resolve_left nofun, .inr⟩
  · rw [State.reg_drawSprite, if_neg hj]

end Sys2Proof.Machine
end

section
/-! PROOFS. The decoder read backwards: a word is the encoding of the instruction that it decodes to, so the words of
an instruction are those with its fields (30_encoding.md R91, R94, R95). -/

namespace Sys2Proof

/-! ### A word is its fields -/

theorem wordOfByteForm_of_fields {w : Word} {t : Nibble} {nn : Byte} (ht : fieldT w = t) (hnn : fieldNN w = nn) :
    wordOfByteForm t (fieldX w) nn = w := by
  subst ht hnn
  apply BitVec.eq_of_toNat_eq
  rw [wordOfByteForm_toNat, fieldT_toNat, fieldX_toNat, fieldNN_toNat]; omega

theorem wordOfDigits_of_fields {w : Word} {t n : Nibble} (ht : fieldT w = t) (hn : fieldN w = n) :
    wordOfDigits t (fieldX w) (fieldY w) n = w := by
  subst ht hn; exact wordOfDigits_fields w

theorem wordOfAddrForm_of_fieldT {w : Word} {t : Nibble} (ht : fieldT w = t) : wordOfAddrForm t (fieldNNN w) = w := by
  subst ht
  apply BitVec.eq_of_toNat_eq
  rw [wordOfAddrForm_toNat, fieldT_toNat, fieldNNN_toNat]; omega

/-! ### The four families with a dispatch of their own -/

theorem encode_of_decodeFamily0 {w : Word} {i : Instr} (ht : fieldT w = 0x0) (h : decodeFamily0 w = some i) :
    encode i = w := by
  simp only [decodeFamily0] at h
  repeat' split at h
  all_goals cases h
  all_goals exact wordOfByteForm_of_fields ht ‹_›

theorem encode_of_decodeFamily8 {w : Word} {i : Instr} (ht : fieldT w = 0x8) (h : decodeFamily8 w = some i) :
    encode i = w := by
  simp only [decodeFamily8] at h
  repeat' split at h
  all_goals cases h
  all_goals exact wordOfDigits_of_fields ht ‹_›

theorem encode_of_decodeFamilyE {w : Word} {i : Instr} (ht : fieldT w = 0xE) (h : decodeFamilyE w = some i) :
    encode i = w := by
  simp only [decodeFamilyE] at h
  repeat' split at h
  all_goals cases h
  all_goals exact wordOfByteForm_of_fields ht ‹_›

theorem encode_of_decodeFamilyF {w : Word} {i : Instr} (ht : fieldT w = 0xF) (h : decodeFamilyF w = some i) :
    encode i = w := by
  simp only [decodeFamilyF] at h
  repeat' split at h
  all_goals cases h
  all_goals exact wordOfByteForm_of_fields ht ‹_›

/-! ### All words -/

/-- No bit of a word is lost, family by family in the decoder's order. -/
theorem encode_of_decodeWord {w : Word} {i : Instr} (h : decodeWord w = some i) : encode i = w := by
  rw [decodeWord] at h
  obtain ⟨ht, h⟩ | ⟨h0, h⟩ := ite_eq_iff.1 h
  · exact encode_of_decodeFamily0 ht h
  obtain ⟨ht, h⟩ | ⟨h1, h⟩ := ite_eq_iff.1 h
  · cases h; exact wordOfAddrForm_of_fieldT ht
  obtain ⟨ht, h⟩ | ⟨h2, h⟩ := ite_eq_iff.1 h
  · cases h; exact wordOfAddrForm_of_fieldT ht
  obtain ⟨ht, h⟩ | ⟨h3, h⟩ := ite_eq_iff.1 h
  · cases h; exact wordOfByteForm_of_fields ht rfl
  obtain ⟨ht, h⟩ | ⟨h4, h⟩ := ite_eq_iff.1 h
  · cases h; exact wordOfByteForm_of_fields ht rfl
  obtain ⟨ht, h⟩ | ⟨h5, h⟩ := ite_eq_iff.1 h
  · cases h; exact wordOfDigits_of_fields ht rfl
  obtain ⟨ht, h⟩ | ⟨h6, h⟩ := ite_eq_iff.1 h
  · cases h; exact wordOfByteForm_of_fields ht rfl
  obtain ⟨ht, h⟩ | ⟨h7, h⟩ := ite_eq_iff.1 h
  · cases h; exact wordOfByteForm_of_fields ht rfl
  obtain ⟨ht, h⟩ | ⟨h8, h⟩ := ite_eq_iff.1 h
  · exact encode_of_decodeFamily8 ht h
  obtain ⟨ht, h⟩ | ⟨h9, h⟩ := ite_eq_iff.1 h
  · cases h; exact wordOfDigits_of_fields ht rfl
  obtain ⟨ht, h⟩ | ⟨hA, h⟩ := ite_eq_iff.1 h
  · cases h; exact wordOfAddrForm_of_fieldT ht
  obtain ⟨ht, h⟩ | ⟨hB, h⟩ := ite_eq_iff.1 h
  · cases h; exact wordOfAddrForm_of_fieldT ht
  obtain ⟨ht, h⟩ | ⟨hC, h⟩ := ite_eq_iff.1 h
  · cases h; exact wordOfByteForm_of_fields ht rfl
  obtain ⟨ht, h⟩ | ⟨hD, h⟩ := ite_eq_iff.1 h
  · cases h; exact wordOfDigits_of_fields ht rfl
  obtain ⟨ht, h⟩ | ⟨hE, h⟩ := ite_eq_iff.1 h
  · exact encode_of_decodeFamilyE ht h
  have hF : fieldT w = 0xF := by bv_omega
  exact encode_of_decodeFamilyF hF h

theorem decodeWord_jp_iff (w : Word) : w &&& 0xF000 = 0x1000 ↔ decodeWord w = some (.jp (fieldNNN w)) := by
  refine (and_F000_eq_iff w 0x1).trans ⟨fun ht => by simp [decodeWord, ht], fun h => ?_⟩
  rw [← encode_of_decodeWord h]
  exact (fields_wordOfAddrForm 0x1 _).1

theorem decodeWord_bcd_iff (w : Word) : w &&& 0xF0FF = 0xF033 ↔ decodeWord w = some (.bcd (fieldX w)) := by
  rw [show (0xF033 : Word) = wordOfDigits 0xF 0 0x3 0x3 from rfl, and_F0FF_eq_iff, ← fieldNN_eq_iff]
  refine ⟨fun ⟨ht, hnn⟩ => by simp [decodeWord, ht, decodeFamilyF, hnn], fun h => ?_⟩
  rw [← encode_of_decodeWord h]
  obtain ⟨ht, -, hnn⟩ := fields_wordOfByteForm 0xF (fieldX w) 0x33
  exact ⟨ht, hnn⟩

end Sys2Proof
end

section
/-! PROOFS. The memory instructions and the access range (20_memory.md R62, R70, R71, R74; 43_index_memory.md R163 to
R166). -/

namespace Sys2Proof.Machine

/-! ### Accesses in range -/

theorem exec_bcd_of_inRange {x : Nibble} {s : State} (h : s.dataBase ≤ 4093) :
    exec (.bcd x) s = .next { s with mem := Memory.writeBytes s.mem s.dataBase (decimalDigits (s.reg x)) } := by
  have hacc : accessFaults (.bcd x) s = false := (accessFaults_false _ s).2 (.inr (Nat.add_le_add_right h 3))
  rw [exec_bcd, hacc]; rfl

theorem exec_stm_of_inRange {x : Nibble} {s : State} (h : s.dataBase + x.toNat ≤ 4095) :
    exec (.stm x) s = .next { s with mem := Memory.writeBytes s.mem s.dataBase (s.firstRegs (memopCount x)) } := by
  have hacc : accessFaults (.stm x) s = false := (accessFaults_false _ s).2 (.inr (Nat.succ_le_succ h))
  rw [exec_stm, hacc]; rfl

theorem exec_ldm_of_inRange {x : Nibble} {s : State} (h : s.dataBase + x.toNat ≤ 4095) :
    exec (.ldm x) s = .next (s.setFirstRegs (Memory.readBytes s.mem s.dataBase (x.toNat + 1))) := by
  have hacc : accessFaults (.ldm x) s = false := (accessFaults_false _ s).2 (.inr (Nat.succ_le_succ h))
  rw [exec_ldm, hacc]; rfl

/-- A stored byte, by its offset from `I`. -/
theorem Memory.get_writeBytes_add (m : Memory) (a : Nat) (bs : List Byte) {k : Nat} (hk : k < bs.length) :
    Memory.get (Memory.writeBytes m a bs) (a + k) = bs.getD k 0 := by
  rw [Memory.get_writeBytes, if_pos (by omega), Nat.add_sub_cancel_left]

theorem byteAt_of_exec_stm {x k : Nibble} {s t : State} (hrange : s.dataBase + x.toNat ≤ 4095)
    (h : exec (.stm x) s = .next t) (hk : k.toNat ≤ x.toNat) : t.byteAt (s.dataBase + k.toNat) = s.reg k := by
  have hlt : k.toNat < memopCount x := Nat.lt_succ_of_le hk
  cases (exec_stm_of_inRange hrange).symm.trans h
  change Memory.get (Memory.writeBytes ..) _ = _
  rw [Memory.get_writeBytes_add _ _ _ (hlt.trans_eq (length_firstRegs_memopCount x s).symm), State.getD_firstRegs,
    if_pos hlt]

theorem toNat_decimalDigits (b : Byte) :
    ((decimalDigits b).getD 0 0).toNat = b.toNat / 100 ∧ ((decimalDigits b).getD 1 0).toNat = b.toNat / 10 % 10 ∧
      ((decimalDigits b).getD 2 0).toNat = b.toNat % 10 := by
  have := b.isLt
  exact ⟨Nat.mod_eq_of_lt (by omega), Nat.mod_eq_of_lt (by omega), Nat.mod_eq_of_lt (by omega)⟩

/-! ### The statements -/

/-- Settles O11: the one fault of an instruction. -/
theorem dataAccessOutOfRangeHaltsPrecisely : Obligations.DataAccessOutOfRangeHaltsPrecisely :=
  ⟨rfl, fun i s hpos hlast => exec_of_accessFaults ((accessFaults_true i s).2 ⟨hpos, hlast⟩)⟩

/-- Settles O35: its words, the three stored digits, and the fault. -/
theorem bcdStoresThreeDigits : Obligations.BcdStoresThreeDigits := by
  refine ⟨decodeWord_bcd_iff, fun x s => ⟨fun hrange => ?_, fun hrange => ?_⟩⟩
  · have hexec := exec_bcd_of_inRange (x := x) hrange
    have hbyte (k : Nat) (hk : k < 3) := Memory.get_writeBytes_add s.mem s.dataBase (decimalDigits (s.reg x)) hk
    obtain ⟨hhundreds, htens, hones⟩ := toNat_decimalDigits (s.reg x)
    exact ⟨_, hexec, rfl, (congrArg _ (hbyte 0 (by decide))).trans hhundreds,
      (congrArg _ (hbyte 1 (by decide))).trans htens, (congrArg _ (hbyte 2 (by decide))).trans hones,
      fun _ ha => exec_byteAt hexec ha⟩
  · have hacc : accessFaults (.bcd x) s = true :=
      (accessFaults_true _ s).2 ⟨Nat.succ_pos 2, Nat.lt_of_lt_of_le (by decide) (Nat.add_le_add_right hrange 3)⟩
    exact ⟨_, exec_of_accessFaults hacc, rfl, rfl, rfl, outOfRangeInfo_toNat _ s.i_lt⟩

/-- Settles O36: the stored bytes, and the frame of every store. -/
theorem stmStoresFirstRegisters : Obligations.StmStoresFirstRegisters := by
  intro x s hrange
  have hexec := exec_stm_of_inRange hrange
  exact ⟨_, hexec, rfl, fun _ hk => byteAt_of_exec_stm hrange hexec hk, fun _ ha => exec_byteAt hexec ha⟩

/-- Settles O17: the two bytes that the fetch reads are stored ones. -/
theorem storeIsSeenByTheNextFetch : Obligations.StoreIsSeenByTheNextFetch := by
  intro x k s t hrange hk h hpc
  have hsucc : (k + 1).toNat = k.toNat + 1 := by
    have := x.isLt
    exact BitVec.toNat_add_of_lt (by change k.toNat + 1 < 16; omega)
  rw [State.fetchWord_eq, hpc, if_pos (by omega), Nat.add_assoc, ← hsucc,
    byteAt_of_exec_stm hrange h (by omega), byteAt_of_exec_stm hrange h (by omega)]

/-- Settles O37: the registers that the bytes read reach. -/
theorem ldmLoadsFirstRegisters : Obligations.LdmLoadsFirstRegisters := by
  intro x s hrange
  refine ⟨_, exec_ldm_of_inRange hrange, rfl, fun j => ?_⟩
  rw [State.reg_setFirstRegs, Memory.getD_readBytes]
  exact if_congr Nat.lt_succ_iff rfl rfl

/-- Settles O23: its words, the new pc, and the fetch at 0xFFF, which reaches past the memory. -/
theorem jumpSetsPcToTheLiteral : Obligations.JumpSetsPcToTheLiteral := by
  refine ⟨decodeWord_jp_iff, fun nnn s => ⟨_, rfl, rfl, addrOperand_toNat nnn, ?_⟩⟩
  rintro rfl hrun keys rnd
  have hw : ((s.setPc (addrOperand 0xFFF)).sample keys rnd).fetchWord = none := rfl
  exact coreCycle_fetchFault hrun hw

end Sys2Proof.Machine
end

section
/-! PROOFS. The decoder and the encoder are inverse to each other, on words and on bytes, and the decoder and the
opcode map agree (30_encoding.md R91, R94, R95, R100, R101). -/

namespace Sys2Proof

/-! ### Decode after encode -/

/-- Decode undoes encode: the fields of the word that is built (R92) are the operands, and its family and sub-opcode
lead the decoder to the constructor. -/
@[simp] theorem decodeWord_encode (i : Instr) : decodeWord (encode i) = some i := by
  cases i
  case cls | ret => simp [encode, decodeWord, decodeFamily0]
  case jp | call | lda | jpv0 => simp [encode, decodeWord]
  case sei | snei | ldi | addi | rnd => simp [encode, decodeWord]
  case ser | sner | drw => simp [encode, decodeWord]
  case mov | or | and | xor | add | sub | shr | subn | shl => simp [encode, decodeWord, decodeFamily8]
  case skp | sknp => simp [encode, decodeWord, decodeFamilyE]
  case lddt | wkey | stdt | stst | adda | font | bcd | stm | ldm => simp [encode, decodeWord, decodeFamilyF]

/-- An instruction has exactly one word, and a word at most one instruction. -/
theorem decodeWord_eq_some_iff {w : Word} {i : Instr} : decodeWord w = some i ↔ encode i = w :=
  ⟨encode_of_decodeWord, by rintro rfl; exact decodeWord_encode i⟩

/-! ### Bytes -/

/-- Everything that decodes: two bytes whose word is an instruction, and whatever follows them. -/
theorem decode_eq_ok_iff {bs rest : List Byte} {i : Instr} :
    decode bs = .ok (i, rest) ↔ ∃ hi lo, bs = hi :: lo :: rest ∧ decodeWord (wordOfBytes hi lo) = some i := by
  constructor
  · intro h
    match bs with
    | [] => cases h
    | [_] => cases h
    | hi :: lo :: bs =>
      rw [decode] at h
      split at h <;> cases h
      exact ⟨hi, lo, rfl, ‹_›⟩
  · rintro ⟨hi, lo, rfl, h⟩
    simp only [decode, h]

/-- The other direction of `wordOfBytes_bytesOfWord`: a byte pair is read back from its word (20_memory.md R64). -/
theorem bytesOfWord_wordOfBytes (hi lo : Byte) : bytesOfWord (wordOfBytes hi lo) = [hi, lo] := by
  have := hi.isLt; have := lo.isLt
  have hword : (wordOfBytes hi lo).toNat = hi.toNat * 256 + lo.toNat := by
    simp only [wordOfBytes, BitVec.toNat_ofNat]; omega
  refine congrArg₂ (fun a b => [a, b]) ?_ ?_ <;> apply BitVec.eq_of_toNat_eq <;>
    simp only [BitVec.extractLsb'_toNat, Nat.shiftRight_eq_div_pow, hword] <;> omega

/-- Settles O1: on words, and so on the two bytes of a word. -/
theorem decodeOfEncodeIsTheInstruction : Obligations.DecodeOfEncodeIsTheInstruction := by
  intro i rest
  refine ⟨decodeWord_encode i, decode_eq_ok_iff.2 ⟨_, _, rfl, ?_⟩⟩
  rw [Machine.wordOfBytes_bytesOfWord, decodeWord_encode]

/-- Settles O2: on words, and so on the two bytes that were decoded. -/
theorem encodeOfDecodeIsTheWord : Obligations.EncodeOfDecodeIsTheWord := by
  refine ⟨fun w i => encode_of_decodeWord, fun bs rest i h => ?_⟩
  obtain ⟨hi, lo, rfl, hd⟩ := decode_eq_ok_iff.1 h
  rw [encodeBytes, encode_of_decodeWord hd, bytesOfWord_wordOfBytes]; rfl

/-! ### What the decoder looks at

The family, and within the families 0x0, 0xE and 0xF the low byte, within 0x8 the last digit (R94). Which row of the
opcode map the instruction belongs to is a matter of these alone; so every row can be held against one word of it. -/

theorem Instr.ctorIdx_lt (i : Instr) : i.ctorIdx < opcodeRows.length := by
  cases i <;> exact of_decide_eq_true rfl

/-- The row of an instruction: the constructors stand in the order of the opcode map. -/
def Instr.row (i : Instr) : OpcodeRow := opcodeRows[i.ctorIdx]'i.ctorIdx_lt

theorem Instr.row_mem (i : Instr) : i.row ∈ opcodeRows := List.getElem_mem _

theorem Instr.mnemonic_row (i : Instr) : i.row.mnemonic = i.mnemonic := by cases i <;> rfl

/-- One test of the decoder, made with the same outcome on two words. -/
theorem map_row_ite_congr {c : Prop} [Decidable c] {a b a' b' : Option Instr}
    (ha : c → a.map Instr.row = a'.map Instr.row) (hb : ¬c → b.map Instr.row = b'.map Instr.row) :
    (if c then a else b).map Instr.row = (if c then a' else b').map Instr.row := by
  by_cases hc : c
  · simpa only [if_pos hc] using ha hc
  · simpa only [if_neg hc] using hb hc

theorem decodeFamily0_row_congr {w w' : Word} (h : fieldNN w = fieldNN w') :
    (decodeFamily0 w).map Instr.row = (decodeFamily0 w').map Instr.row := by
  rw [decodeFamily0, decodeFamily0, h]
  iterate 2 refine map_row_ite_congr (fun _ => rfl) fun _ => ?_
  rfl

theorem decodeFamily8_row_congr {w w' : Word} (h : fieldN w = fieldN w') :
    (decodeFamily8 w).map Instr.row = (decodeFamily8 w').map Instr.row := by
  rw [decodeFamily8, decodeFamily8, h]
  iterate 9 refine map_row_ite_congr (fun _ => rfl) fun _ => ?_
  rfl

theorem decodeFamilyE_row_congr {w w' : Word} (h : fieldNN w = fieldNN w') :
    (decodeFamilyE w).map Instr.row = (decodeFamilyE w').map Instr.row := by
  rw [decodeFamilyE, decodeFamilyE, h]
  iterate 2 refine map_row_ite_congr (fun _ => rfl) fun _ => ?_
  rfl

theorem decodeFamilyF_row_congr {w w' : Word} (h : fieldNN w = fieldNN w') :
    (decodeFamilyF w).map Instr.row = (decodeFamilyF w').map Instr.row := by
  rw [decodeFamilyF, decodeFamilyF, h]
  iterate 9 refine map_row_ite_congr (fun _ => rfl) fun _ => ?_
  rfl

/-- Two words decode to the same row when they agree in the family and in what the family dispatches on. -/
theorem decodeWord_row_congr {w w' : Word} (ht : fieldT w = fieldT w')
    (hnn : fieldT w ∈ [0x0, 0xE, 0xF] → fieldNN w = fieldNN w') (hn : fieldT w = 0x8 → fieldN w = fieldN w') :
    (decodeWord w).map Instr.row = (decodeWord w').map Instr.row := by
  rw [decodeWord, decodeWord, ← ht]
  refine map_row_ite_congr (fun h0 => decodeFamily0_row_congr (hnn (by simp [h0]))) fun h0 => ?_
  iterate 7 refine map_row_ite_congr (fun _ => rfl) fun _ => ?_
  refine map_row_ite_congr (fun h8 => decodeFamily8_row_congr (hn h8)) fun h8 => ?_
  iterate 5 refine map_row_ite_congr (fun _ => rfl) fun _ => ?_
  refine map_row_ite_congr (fun hE => decodeFamilyE_row_congr (hnn (by simp [hE]))) fun hE => ?_
  have hF : fieldT w = 0xF := by bv_omega
  exact decodeFamilyF_row_congr (hnn (by simp [hF]))

/-! ### The rows of the opcode map -/

/-- The three kinds of row: the mask takes the family alone, the family and the last digit, or the family and the low
byte, and the value stands in the digits that the mask takes. -/
def OpcodeRow.Masks (r : OpcodeRow) : Prop :=
  (r.mask = 0xF000 ∧ r.value = wordOfDigits (fieldT r.value) 0 0 0 ∧ fieldT r.value ∉ [0x0, 0xE, 0xF] ∧
    fieldT r.value ≠ 0x8) ∨
  (r.mask = 0xF00F ∧ r.value = wordOfDigits (fieldT r.value) 0 0 (fieldN r.value) ∧ fieldT r.value = 0x8) ∨
  (r.mask = 0xF0FF ∧ r.value = wordOfDigits (fieldT r.value) 0 (fieldY r.value) (fieldN r.value))

theorem masks_of_mem_opcodeRows : ∀ r ∈ opcodeRows, r.Masks := by unfold OpcodeRow.Masks; decide

theorem fieldNN_congr {w w' : Word} (hy : fieldY w = fieldY w') (hn : fieldN w = fieldN w') :
    fieldNN w = fieldNN w' :=
  ((fieldNN_eq_iff w _ _).2 ⟨hy, hn⟩).trans ((fieldNN_eq_iff w' _ _).2 ⟨rfl, rfl⟩).symm

/-- The value of a row is itself a word of that row. -/
theorem decodeWord_value_of_mem_opcodeRows :
    ∀ r ∈ opcodeRows, (decodeWord r.value).map Instr.row = some r := by decide

theorem nodup_opcodeRows_mnemonic : (opcodeRows.map OpcodeRow.mnemonic).Nodup := by decide

/-- A word that matches a row decodes to an instruction of it: it agrees with the row's value in all that the decoder
looks at. -/
theorem decodeWord_row_of_and_mask_eq {r : OpcodeRow} (hr : r ∈ opcodeRows) {w : Word} (h : w &&& r.mask = r.value) :
    (decodeWord w).map Instr.row = some r := by
  rw [← decodeWord_value_of_mem_opcodeRows r hr]
  obtain ⟨hm, hv, hnot, hne⟩ | ⟨hm, hv, h8⟩ | ⟨hm, hv⟩ := masks_of_mem_opcodeRows r hr <;>
    rw [hm, hv] at h
  · have hw := (and_F000_eq_iff w _).1 h
    rw [← hw] at hnot hne
    exact decodeWord_row_congr hw (fun h => absurd h hnot) (fun h => absurd h hne)
  · obtain ⟨hw, hn⟩ := (and_F00F_eq_iff w _ _).1 h
    exact decodeWord_row_congr hw (fun h => absurd h (by simp [hw, h8])) (fun _ => hn)
  · obtain ⟨hw, hy, hn⟩ := (and_F0FF_eq_iff w _ _ _).1 h
    exact decodeWord_row_congr hw (fun _ => fieldNN_congr hy hn) (fun _ => hn)

/-- The mask of family and low byte takes out the register digit. -/
theorem and_F0FF_wordOfByteForm (t x : Nibble) (nn : Byte) :
    wordOfByteForm t x nn &&& 0xF0FF = wordOfByteForm t 0 nn := by
  obtain ⟨ht, -, -⟩ := fields_wordOfByteForm t x nn
  have hmask := (and_F0FF_eq_iff (wordOfByteForm t x nn) t _ _).2 ⟨ht, rfl, rfl⟩
  refine hmask.trans (BitVec.eq_of_toNat_eq ?_)
  have := t.isLt; have := nn.isLt; have h0 : (0 : Nibble).toNat = 0 := rfl
  rw [wordOfDigits_toNat, fieldY_toNat, fieldN_toNat, wordOfByteForm_toNat, wordOfByteForm_toNat, h0]
  omega

/-- Every word of an instruction matches the instruction's row, format by format (R92). -/
theorem encode_and_mask_row (i : Instr) : encode i &&& i.row.mask = i.row.value := by
  cases i
  case jp | call | lda | jpv0 => exact (and_F000_eq_iff _ _).2 (fields_wordOfAddrForm ..).1
  case sei | snei | ldi | addi | rnd => exact (and_F000_eq_iff _ _).2 (fields_wordOfByteForm ..).1
  case ser | sner | drw => exact (and_F000_eq_iff _ _).2 (fields_wordOfDigits ..).1
  case mov | or | and | xor | add | sub | shr | subn | shl =>
    obtain ⟨ht, -, -, hn⟩ := fields_wordOfDigits 0x8 _ _ _
    exact (and_F00F_eq_iff _ _ _).2 ⟨ht, hn⟩
  -- the forms with a sub-opcode byte
  all_goals exact and_F0FF_wordOfByteForm ..

/-- A word matches a row exactly when it is an instruction of that row. -/
theorem and_mask_eq_value_iff {r : OpcodeRow} (hr : r ∈ opcodeRows) (w : Word) :
    w &&& r.mask = r.value ↔ (decodeWord w).map Instr.row = some r := by
  refine ⟨decodeWord_row_of_and_mask_eq hr, fun h => ?_⟩
  obtain ⟨i, hi, rfl⟩ := Option.map_eq_some_iff.1 h
  rw [← encode_of_decodeWord hi]
  exact encode_and_mask_row i

/-- The mnemonics tell the rows apart. -/
theorem Instr.row_eq_iff_mnemonic_eq {r : OpcodeRow} (hr : r ∈ opcodeRows) (i : Instr) :
    i.row = r ↔ i.mnemonic = r.mnemonic := by
  rw [← i.mnemonic_row]
  exact ⟨congrArg _, List.inj_on_of_nodup_map nodup_opcodeRows_mnemonic i.row_mem hr⟩

/-- Settles O3: by the row of the instruction that the word decodes to, which is one row. -/
theorem wordIsInstructionExactlyWhenRowMatches : Obligations.WordIsInstructionExactlyWhenRowMatches := by
  refine ⟨rfl, fun w r hr => ⟨?_, fun q hq hne hwr hwq => hne ?_⟩⟩
  · rw [and_mask_eq_value_iff hr, Option.map_eq_some_iff]
    exact exists_congr fun i => and_congr_right fun _ => Instr.row_eq_iff_mnemonic_eq hr i
  · have hwr := (and_mask_eq_value_iff hr w).1 hwr
    have hwq := (and_mask_eq_value_iff hq w).1 hwq
    exact Option.some.inj (hwq.symm.trans hwr)

end Sys2Proof
end

section
/-! PROOFS. The words that are no instruction, the words of single instructions, and what an illegal word, a program
load and the unused digits do (30_encoding.md R100, R101, R106). -/

namespace Sys2Proof

/-! ### The illegal words -/

theorem decodeFamily0_eq_none_iff (w : Word) : decodeFamily0 w = none ↔ w.toNat % 256 ∉ [0xE0, 0xEE] := by
  rw [← fieldNN_toNat]
  simp [decodeFamily0, ite_eq_iff, ← BitVec.toNat_inj]

theorem decodeFamily8_eq_none_iff (w : Word) :
    decodeFamily8 w = none ↔ w.toNat % 16 ∈ [0x8, 0x9, 0xA, 0xB, 0xC, 0xD, 0xF] := by
  rw [← fieldN_toNat]
  simp only [decodeFamily8, ite_eq_iff, reduceCtorEq, and_false, false_or, and_true, List.mem_cons, List.not_mem_nil,
    or_false]
  bv_omega

theorem decodeFamilyE_eq_none_iff (w : Word) : decodeFamilyE w = none ↔ w.toNat % 256 ∉ [0x9E, 0xA1] := by
  rw [← fieldNN_toNat]
  simp [decodeFamilyE, ite_eq_iff, ← BitVec.toNat_inj]

theorem decodeFamilyF_eq_none_iff (w : Word) : decodeFamilyF w = none ↔
    w.toNat % 256 ∉ [0x07, 0x0A, 0x15, 0x18, 0x1E, 0x29, 0x33, 0x55, 0x65] := by
  rw [← fieldNN_toNat]
  simp [decodeFamilyF, ite_eq_iff, ← BitVec.toNat_inj]

/-- Only the four families with a dispatch of their own have illegal words (30_encoding.md R101). -/
theorem decodeWord_eq_none_iff (w : Word) : decodeWord w = none ↔
    (fieldT w = 0x0 ∧ decodeFamily0 w = none) ∨ (fieldT w = 0x8 ∧ decodeFamily8 w = none) ∨
    (fieldT w = 0xE ∧ decodeFamilyE w = none) ∨ (fieldT w = 0xF ∧ decodeFamilyF w = none) := by
  simp only [decodeWord, ite_eq_iff, reduceCtorEq, and_false, false_or]
  by_cases h0 : fieldT w = 0x0
  · simp [h0]
  by_cases h8 : fieldT w = 0x8
  · simp [h8]
  by_cases hE : fieldT w = 0xE
  · simp [hE]
  by_cases hF : fieldT w = 0xF
  · simp [hF]
  -- in each of the other twelve families every word is an instruction
  bv_omega

/-- Settles O4: the numbers of R101 are those that the four dispatches leave out. -/
theorem illegalWordsAreThoseOfTheTable : Obligations.IllegalWordsAreThoseOfTheTable := by
  intro w
  rw [decodeWord_eq_none_iff, decodeFamily0_eq_none_iff, decodeFamily8_eq_none_iff, decodeFamilyE_eq_none_iff,
    decodeFamilyF_eq_none_iff]
  simp only [← BitVec.toNat_inj, fieldT_toNat]
  exact Iff.rfl

/-! ### Words of single instructions -/

/-- Settles O6: each word is evaluated. -/
theorem wordsOfEachFamilyDecode : Obligations.WordsOfEachFamilyDecode := by
  unfold Obligations.WordsOfEachFamilyDecode; decide

theorem wordOfDigits_eq_iff_fieldT (w : Word) (t : Nibble) :
    wordOfDigits t (fieldX w) (fieldY w) (fieldN w) = w ↔ fieldT w = t := by
  refine ⟨fun h => ?_, fun h => wordOfDigits_of_fields h rfl⟩
  rw [← h]; exact (fields_wordOfDigits ..).1

theorem decodeWord_ser_iff (w : Word) :
    w &&& 0xF000 = 0x5000 ↔ decodeWord w = some (.ser (fieldX w) (fieldY w) (fieldN w)) := by
  rw [decodeWord_eq_some_iff]
  exact (and_F000_eq_iff w 0x5).trans (wordOfDigits_eq_iff_fieldT w 0x5).symm

theorem decodeWord_sner_iff (w : Word) :
    w &&& 0xF000 = 0x9000 ↔ decodeWord w = some (.sner (fieldX w) (fieldY w) (fieldN w)) := by
  rw [decodeWord_eq_some_iff]
  exact (and_F000_eq_iff w 0x9).trans (wordOfDigits_eq_iff_fieldT w 0x9).symm

theorem decodeWord_cls_iff (w : Word) : w &&& 0xF0FF = 0x00E0 ↔ decodeWord w = some (.cls (fieldX w)) := by
  rw [decodeWord_eq_some_iff]
  refine ⟨fun h => ?_, fun h => ?_⟩
  · obtain ⟨ht, hy, hn⟩ := (and_F0FF_eq_iff w 0x0 0xE 0x0).1 h
    exact wordOfByteForm_of_fields ht ((fieldNN_eq_iff w 0xE 0x0).2 ⟨hy, hn⟩)
  · rw [← h]; exact and_F0FF_wordOfByteForm ..

namespace Machine

/-- Settles O5: `exec` binds the unused digits by wildcards, so both sides are the same meaning. -/
theorem unusedDigitsDoNotMatter : Obligations.UnusedDigitsDoNotMatter := by
  intro i s
  cases i <;> exact ⟨rfl, rfl⟩

/-- Settles O28: their words, and a skip by the comparison of the registers. -/
theorem registerSkipsAddTwoWhenTaken : Obligations.RegisterSkipsAddTwoWhenTaken := by
  refine ⟨decodeWord_ser_iff, decodeWord_sner_iff, fun x y d s => ⟨?_, ?_⟩⟩
  · refine (congrArg Host.Outcome.next (s.skipIf_eq _)).trans ?_
    simp only [beq_iff_eq, BitVec.toNat_inj]
  · refine (congrArg Host.Outcome.next (s.skipIf_eq _)).trans ?_
    simp only [bne_iff_ne, ne_eq, BitVec.toNat_inj]

/-- Settles O43: its words, and the blank display. -/
theorem clearTurnsEveryPixelOff : Obligations.ClearTurnsEveryPixelOff :=
  ⟨decodeWord_cls_iff, fun _ _ => ⟨_, rfl, rfl, Display.get_blank⟩⟩

/-- An instruction leaves the FAULT record alone, or its access is out of range and it records that. -/
theorem exec_fault {i : Instr} {s t : State} (h : exec i s = .next t) :
    t.fault = s.fault ∨ t.fault.cause = .memoryAddressOutOfRange := by
  cases hacc : accessFaults i s
  case false => exact .inl (exec_completes h hacc).fault
  case true => rw [exec_of_accessFaults hacc] at h; cases h; exact .inr rfl

/-- Settles O10: the illegal case of the cycle, the address being read back from the advanced pc. -/
theorem illegalWordHaltsWithTheWord : Obligations.IllegalWordHaltsWithTheWord := by
  refine ⟨rfl, fun s keys rnd w hrun hw hd => ?_, fun i s t h hcause => ?_⟩
  · have hcycle := coreCycle_illegal (s := s.sample keys rnd) hrun hw hd
    have hback : (s.sample keys rnd).advancePc.insnAddr = s.pc := by simp
    rw [State.raiseIllegalOpcode, hback] at hcycle
    exact hcycle
  · exact (exec_fault h).resolve_right fun hdata => by rw [hcause] at hdata; cases hdata

/-- Settles O20: the two outcomes of the reset move, and the cycle after the load of nothing, which fetches 0x0000. -/
theorem loadPlacesTheImageOrRefusesIt : Obligations.LoadPlacesTheImageOrRefusesIt := by
  refine ⟨fun s image hlen => ?_, fun s image hlen => ?_, ?_⟩
  · exact ⟨_, (s.hostReset_eq image).trans (if_pos hlen), rfl, State.byteAt_booted image⟩
  · exact (s.hostReset_eq image).trans (if_neg (Nat.not_le_of_lt hlen))
  · have hw : State.reset.beginStep.fetchWord = some 0x0000 := rfl
    exact ⟨_, coreCycle_illegal (s := State.reset.beginStep) rfl hw rfl, rfl, rfl⟩

end Machine

end Sys2Proof
end

section
/-! PROOFS. Control transfer that leads back: a jump to its own address, and a return after its call (40_flow.md R120 to
R122; 70_reset_and_hazards.md R248). -/

namespace Sys2Proof.Machine

theorem State.slot_congr {s t : State} (h : s.stack = t.stack) (k : Nibble) : s.slot k = t.slot k := by
  rw [State.slot, State.slot, h]

/-- Setting pc back to where it stood undoes the advance of the cycle. -/
theorem State.setPc_advancePc_eq_self {s : State} {w : Word} (h : w = s.pc) : s.advancePc.setPc w = s := by
  rw [h]; rfl

/-- Settles O18: the executed case of the cycle, where the jump sets pc back to the jump's own address. -/
theorem selfJumpChangesNothing : Obligations.SelfJumpChangesNothing := by
  intro s nnn keys rnd hrun hpc hw
  have htarget : addrOperand nnn = (s.sample keys rnd).pc :=
    BitVec.eq_of_toNat_eq ((addrOperand_toNat nnn).trans hpc.symm)
  calc
    applyMove (.cycle keys rnd) s = exec (.jp nnn) (s.sample keys rnd).advancePc :=
      coreCycle_exec (s := s.sample keys rnd) hrun hw (decodeWord_encode (.jp nnn))
    _ = .next (s.sample keys rnd) := congrArg Host.Outcome.next (State.setPc_advancePc_eq_self htarget)

/-- Settles O25: the return pops the slot that the call pushed to. -/
theorem returnUndoesCall : Obligations.ReturnUndoesCall := by
  intro nnn d s t u hcall hsp hstack
  cases hcall
  have hback : u.sp - 1 = s.sp := by rw [hsp]; exact add_sub_cancel_right s.sp 1
  refine ⟨u.popPc, rfl, ?_, hback⟩
  calc
    u.slot (u.sp - 1) = u.slot s.sp := by rw [hback]
    _ = s.pushPc.slot s.sp := State.slot_congr hstack s.sp
    _ = s.pc := by rw [State.slot_pushPc, if_pos rfl]

end Sys2Proof.Machine
end

section
/-! PROOFS. The skips against a literal, with their words (30_encoding.md R92, R95; 41_skip.md R130, R131). -/

namespace Sys2Proof

theorem wordOfByteForm_eq_iff_fieldT (w : Word) (t : Nibble) :
    wordOfByteForm t (fieldX w) (fieldNN w) = w ↔ fieldT w = t := by
  refine ⟨fun h => ?_, fun h => wordOfByteForm_of_fields h rfl⟩
  rw [← h]; exact (fields_wordOfByteForm ..).1

theorem decodeWord_sei_iff (w : Word) :
    w &&& 0xF000 = 0x3000 ↔ decodeWord w = some (.sei (fieldX w) (fieldNN w)) := by
  rw [decodeWord_eq_some_iff]
  exact (and_F000_eq_iff w 0x3).trans (wordOfByteForm_eq_iff_fieldT w 0x3).symm

theorem decodeWord_snei_iff (w : Word) :
    w &&& 0xF000 = 0x4000 ↔ decodeWord w = some (.snei (fieldX w) (fieldNN w)) := by
  rw [decodeWord_eq_some_iff]
  exact (and_F000_eq_iff w 0x4).trans (wordOfByteForm_eq_iff_fieldT w 0x4).symm

namespace Machine

/-- A skip on a Boolean test, read as the proposition that it decides. -/
theorem State.skipIf_eq_of_iff (s : State) {c : Bool} {p : Prop} [Decidable p] (h : c = true ↔ p) :
    s.skipIf c = { s with pc := if p then s.pc + 2 else s.pc } := by
  rw [s.skipIf_eq]; simp only [h]

/-- Settles O27: their words, and a skip by the comparison of the register with the literal. -/
theorem immediateSkipsAddTwoWhenTaken : Obligations.ImmediateSkipsAddTwoWhenTaken := by
  refine ⟨decodeWord_sei_iff, decodeWord_snei_iff, fun x nn s => ?_⟩
  have heq : (s.reg x == nn) = true ↔ (s.reg x).toNat = nn.toNat := beq_iff_eq.trans BitVec.toNat_inj.symm
  have hne : (s.reg x != nn) = true ↔ (s.reg x).toNat ≠ nn.toNat := bne_iff_ne.trans BitVec.toNat_ne
  exact ⟨congrArg Host.Outcome.next (s.skipIf_eq_of_iff heq), congrArg Host.Outcome.next (s.skipIf_eq_of_iff hne)⟩

end Machine

end Sys2Proof
end

section
/-! PROOFS. Register loads, logic, arithmetic and shifts (42_alu.md R140 to R152), with the words of the instructions
that write one register alone (30_encoding.md R92, R95). -/

namespace Sys2Proof

/-! ### Words -/

/-- The words of an instruction of format XI are those of its family. -/
theorem and_F000_eq_iff_decodeWord {w : Word} {t : Nibble} {i : Instr}
    (henc : encode i = wordOfByteForm t (fieldX w) (fieldNN w)) :
    w &&& 0xF000 = wordOfDigits t 0 0 0 ↔ decodeWord w = some i := by
  rw [decodeWord_eq_some_iff, henc, wordOfByteForm_eq_iff_fieldT, and_F000_eq_iff]

theorem wordOfDigits_eq_iff_fieldT_fieldN (w : Word) (t n : Nibble) :
    wordOfDigits t (fieldX w) (fieldY w) n = w ↔ fieldT w = t ∧ fieldN w = n := by
  refine ⟨fun h => ?_, fun ⟨ht, hn⟩ => wordOfDigits_of_fields ht hn⟩
  obtain ⟨ht, -, -, hn⟩ := fields_wordOfDigits t (fieldX w) (fieldY w) n
  rw [h] at ht hn
  exact ⟨ht, hn⟩

/-- The words of an instruction of format XY are those of its family and last digit. -/
theorem and_F00F_eq_iff_decodeWord {w : Word} {t n : Nibble} {i : Instr}
    (henc : encode i = wordOfDigits t (fieldX w) (fieldY w) n) :
    w &&& 0xF00F = wordOfDigits t 0 0 n ↔ decodeWord w = some i := by
  rw [decodeWord_eq_some_iff, henc, wordOfDigits_eq_iff_fieldT_fieldN, and_F00F_eq_iff]

namespace Machine

/-! ### Writes to one register -/

theorem State.reg_setReg_self (s : State) (x : Nibble) (b : Byte) : (s.setReg x b).reg x = b :=
  (s.reg_setReg x x b).trans (if_pos rfl)

theorem State.reg_setReg_of_ne (s : State) (x : Nibble) (b : Byte) (j : Nibble) (hj : j ≠ x) :
    (s.setReg x b).reg j = s.reg j :=
  (s.reg_setReg x j b).trans (if_neg hj)

/-- Settles O29: their words, and a write to one register. -/
theorem immediateLoadAndAdd : Obligations.ImmediateLoadAndAdd := by
  refine ⟨fun w => and_F000_eq_iff_decodeWord (t := 0x6) rfl, fun w => and_F000_eq_iff_decodeWord (t := 0x7) rfl,
    fun x nn s => ⟨?_, ?_⟩⟩
  · exact ⟨_, rfl, rfl, s.reg_setReg_self x nn, s.reg_setReg_of_ne x nn⟩
  · refine ⟨_, rfl, rfl, ?_, s.reg_setReg_of_ne x _⟩
    rw [State.reg_setReg_self, BitVec.toNat_add]

/-- Settles O30: their words, and a write to one register, bit by bit. -/
theorem copyAndLogicWriteOnlyVx : Obligations.CopyAndLogicWriteOnlyVx := by
  refine ⟨fun w => and_F00F_eq_iff_decodeWord (t := 0x8) (n := 0x0) rfl,
    fun w => and_F00F_eq_iff_decodeWord (t := 0x8) (n := 0x1) rfl,
    fun w => and_F00F_eq_iff_decodeWord (t := 0x8) (n := 0x2) rfl,
    fun w => and_F00F_eq_iff_decodeWord (t := 0x8) (n := 0x3) rfl, fun x y s => ⟨?_, ?_, ?_, ?_⟩⟩
  · exact ⟨_, rfl, rfl, s.reg_setReg_self x _, s.reg_setReg_of_ne x _⟩
  · refine ⟨_, rfl, rfl, fun b => ?_, s.reg_setReg_of_ne x _⟩
    rw [State.reg_setReg_self, BitVec.getLsbD_or]
  · refine ⟨_, rfl, rfl, fun b => ?_, s.reg_setReg_of_ne x _⟩
    rw [State.reg_setReg_self, BitVec.getLsbD_and]
  · refine ⟨_, rfl, rfl, fun b => ?_, s.reg_setReg_of_ne x _⟩
    rw [State.reg_setReg_self, BitVec.getLsbD_xor]

/-! ### Result, then flag -/

/-- A result and then a flag: Vx holds the result unless the flag stands there (decision D5), and only these two
registers change. -/
theorem exists_next_setRegFlag {o : Result} {s : State} {x : Nibble} {b f : Byte} {result flag : Nat}
    (ho : o = .next (s.setRegFlag x b f)) (hresult : b.toNat = result) (hflag : f.toNat = flag) :
    ∃ t, o = .next t ∧ t = { s with v := t.v } ∧ (x ≠ 0xF → (t.reg x).toNat = result) ∧
      (t.reg 0xF).toNat = flag ∧ ∀ j, j ≠ x → j ≠ 0xF → t.reg j = s.reg j := by
  refine ⟨_, ho, rfl, fun hx => ?_, ?_, fun j hj hF => ?_⟩
  · rw [State.reg_setRegFlag, if_neg hx, if_pos rfl, hresult]
  · rw [State.reg_setRegFlag, if_pos rfl, hflag]
  · rw [State.reg_setRegFlag, if_neg hF, if_neg hj]

theorem carryFlag_toNat (a b : Byte) : (carryFlag a b).toNat = if 256 ≤ a.toNat + b.toNat then 1 else 0 := by
  simp only [carryFlag, flagByte_toNat, decide_eq_true_eq]

theorem noBorrowFlag_toNat (a b : Byte) : (noBorrowFlag a b).toNat = if b.toNat ≤ a.toNat then 1 else 0 := by
  simp only [noBorrowFlag_eq, flagByte_toNat, decide_eq_true_eq]

/-- A difference of bytes wraps from 0 to 255 (42_alu.md R147). -/
theorem byte_sub_toNat (a b : Byte) : (a - b).toNat = (a.toNat + 256 - b.toNat) % 256 := by
  have hb := b.isLt
  rw [BitVec.toNat_sub]; congr 1; omega

/-- Settles O31: sum, difference and difference the other way round, each with its flag. -/
theorem addAndSubtractWriteResultThenFlag : Obligations.AddAndSubtractWriteResultThenFlag :=
  fun _ _ _ =>
    ⟨exists_next_setRegFlag rfl (BitVec.toNat_add ..) (carryFlag_toNat ..),
      exists_next_setRegFlag rfl (byte_sub_toNat ..) (noBorrowFlag_toNat ..),
      exists_next_setRegFlag rfl (byte_sub_toNat ..) (noBorrowFlag_toNat ..)⟩

/-! ### Shifts -/

theorem flagByte_toNat_eq_toNat (b : Bool) : (flagByte b).toNat = b.toNat := by cases b <;> rfl

theorem shrFlag_toNat (a : Byte) : (shrFlag a).toNat = a.toNat % 2 := by
  rw [shrFlag, BitVec.getLsbD, flagByte_toNat_eq_toNat, Nat.toNat_testBit, pow_zero, Nat.div_one]

/-- Above bit 7 a byte has no bit. -/
theorem shlFlag_toNat (a : Byte) : (shlFlag a).toNat = a.toNat / 128 := by
  have ha := a.isLt
  rw [shlFlag, BitVec.getLsbD, flagByte_toNat_eq_toNat, Nat.toNat_testBit]; omega

theorem byte_shiftRight_one_toNat (a : Byte) : (a >>> 1).toNat = a.toNat / 2 := by
  rw [BitVec.toNat_ushiftRight, Nat.shiftRight_one]

theorem byte_shiftLeft_one_toNat (a : Byte) : (a <<< 1).toNat = a.toNat * 2 % 256 := by
  rw [BitVec.toNat_shiftLeft, Nat.shiftLeft_eq, pow_one]

/-- Settles O32: half and twice the byte, each with the bit shifted out; y is bound by a wildcard in `exec`. -/
theorem shiftsMoveVxByOneBit : Obligations.ShiftsMoveVxByOneBit :=
  fun _ _ _ =>
    ⟨exists_next_setRegFlag rfl (byte_shiftRight_one_toNat _) (shrFlag_toNat _),
      exists_next_setRegFlag rfl (byte_shiftLeft_one_toNat _) (shlFlag_toNat _)⟩

end Machine

end Sys2Proof
end

section
/-! PROOFS. Store and load back, and the instructions that write I alone, with their words (30_encoding.md R92, R95;
43_index_memory.md R160 to R162, R165, R166). -/

namespace Sys2Proof

/-! ### Words -/

theorem wordOfAddrForm_eq_iff_fieldT (w : Word) (t : Nibble) :
    wordOfAddrForm t (fieldNNN w) = w ↔ fieldT w = t := by
  refine ⟨fun h => ?_, wordOfAddrForm_of_fieldT⟩
  rw [← h]; exact (fields_wordOfAddrForm ..).1

theorem decodeWord_lda_iff (w : Word) : w &&& 0xF000 = 0xA000 ↔ decodeWord w = some (.lda (fieldNNN w)) := by
  rw [decodeWord_eq_some_iff]
  exact (and_F000_eq_iff w 0xA).trans (wordOfAddrForm_eq_iff_fieldT w 0xA).symm

theorem wordOfByteForm_eq_iff_fieldT_fieldNN (w : Word) (t : Nibble) (nn : Byte) :
    wordOfByteForm t (fieldX w) nn = w ↔ fieldT w = t ∧ fieldNN w = nn := by
  refine ⟨fun h => ?_, fun ⟨ht, hnn⟩ => wordOfByteForm_of_fields ht hnn⟩
  obtain ⟨ht, -, hnn⟩ := fields_wordOfByteForm t (fieldX w) nn
  rw [h] at ht hnn
  exact ⟨ht, hnn⟩

/-- The words of an instruction of format X are those of its family and low byte, given as two digits. -/
theorem and_F0FF_eq_iff_decodeWord {w : Word} {t hi lo : Nibble} {i : Instr}
    (henc : encode i = wordOfByteForm t (fieldX w) (BitVec.ofNat 8 (hi.toNat * 16 + lo.toNat))) :
    w &&& 0xF0FF = wordOfDigits t 0 hi lo ↔ decodeWord w = some i := by
  rw [decodeWord_eq_some_iff, henc, wordOfByteForm_eq_iff_fieldT_fieldNN, fieldNN_eq_iff, and_F0FF_eq_iff]

namespace Machine

/-! ### Store and load back -/

/-- STM leaves the base of the next data access where it was (decision D19). -/
theorem dataBase_of_exec_stm {x : Nibble} {s t : State} (hrange : s.dataBase + x.toNat ≤ 4095)
    (h : exec (.stm x) s = .next t) : t.dataBase = s.dataBase := by
  cases (exec_stm_of_inRange hrange).symm.trans h; rfl

/-- Settles O38: the bytes that LDM reads are those that STM stored, since both start at the same I. -/
theorem ldmRestoresWhatStmStored : Obligations.LdmRestoresWhatStmStored := by
  intro x s t u hrange hstm hmem hi
  have hbase : u.dataBase = s.dataBase := (congrArg BitVec.toNat hi).trans (dataBase_of_exec_stm hrange hstm)
  have hbyte (a : Nat) : u.byteAt a = t.byteAt a := congrArg (Memory.get · a) hmem
  obtain ⟨w, hldm, -, hreg⟩ := ldmLoadsFirstRegisters x u (hbase ▸ hrange)
  refine ⟨w, hldm, fun j => (hreg j).trans (ite_congr rfl (fun hj => ?_) fun _ => rfl)⟩
  rw [hbase, hbyte, byteAt_of_exec_stm hrange hstm hj]

/-! ### Writes to I -/

/-- Settles O33: their words, and a write to I. -/
theorem addressRegisterLoadAndAdd : Obligations.AddressRegisterLoadAndAdd := by
  refine ⟨decodeWord_lda_iff, fun w => and_F0FF_eq_iff_decodeWord (t := 0xF) (hi := 0x1) (lo := 0xE) rfl,
    fun nnn s => ⟨_, rfl, rfl, addrOperand_toNat nnn⟩, fun x s => ⟨_, rfl, rfl, ?_⟩⟩
  rw [State.setI_i, BitVec.toNat_add, State.regWord_toNat]; rfl

/-- Settles O34: a write to I, and no reduction, since 0x50 + 5 * 255 fits a word. -/
theorem fontPointsAtTheGlyph : Obligations.FontPointsAtTheGlyph :=
  fun x s => ⟨_, rfl, rfl, glyphAddr_toNat (s.reg x)⟩

end Machine

end Sys2Proof
end

section
/-! PROOFS. The instructions that read or set a timer, with their words, and the ticks that follow (30_encoding.md R92,
R95; 44_random_input_timer.md R173, R175, R176; 60_exceptions.md R212, R215; 70_reset_and_hazards.md R246). -/

namespace Sys2Proof.Machine

/-- `sound_active` is 1 as long as the sound timer is above 0 (60_exceptions.md R215). -/
theorem State.soundActive_iff (s : State) : s.soundActive = true ↔ 0 < s.st.toNat := by
  rw [State.soundActive, bne_iff_ne, BitVec.toNat_ne, Nat.pos_iff_ne_zero]; rfl

theorem State.dt_ticks_setDt (s : State) (b : Byte) (n : Nat) : ((s.setDt b).ticks n).dt.toNat = b.toNat - n :=
  timerAfter_toNat n b

/-- A sound timer that starts at `b` sounds through the first `b - 1` ticks. -/
theorem State.soundActive_ticks_setSt (s : State) (b : Byte) (n : Nat) :
    ((s.setSt b).ticks n).soundActive = true ↔ n < b.toNat := by
  rw [State.soundActive_iff, State.ticks_st, timerAfter_toNat, State.setSt_st, Nat.sub_pos_iff_lt]

/-- Settles O22: LDDT copies the timer that the ticks have counted down. -/
theorem delayTimerReadsBackLessTheTicks : Obligations.DelayTimerReadsBackLessTheTicks := by
  intro x y n s t u hset hread
  cases hset
  cases hread
  rw [State.reg_setReg_self, State.dt_ticks_setDt]

/-- Settles O42: their words, a write to one register or one timer, and the ticks of that timer. -/
theorem timerInstructionsMoveOneByte : Obligations.TimerInstructionsMoveOneByte := by
  refine ⟨fun w => and_F0FF_eq_iff_decodeWord (t := 0xF) (hi := 0x0) (lo := 0x7) rfl,
    fun w => and_F0FF_eq_iff_decodeWord (t := 0xF) (hi := 0x1) (lo := 0x5) rfl,
    fun w => and_F0FF_eq_iff_decodeWord (t := 0xF) (hi := 0x1) (lo := 0x8) rfl, fun x s => ⟨?_, ?_, ?_⟩⟩
  · exact ⟨_, rfl, rfl, s.reg_setReg_self x s.dt, s.reg_setReg_of_ne x s.dt⟩
  · exact ⟨_, rfl, rfl, s.dt_ticks_setDt (s.reg x)⟩
  · exact ⟨_, rfl, rfl, s.soundActive_ticks_setSt (s.reg x)⟩

end Sys2Proof.Machine
end

section
/-! PROOFS. A sprite drawn a second time at the same place (45_display.md R181): the first draw leaves I, memory and the
coordinates alone, so the second one inverts the same pixels. -/

namespace Sys2Proof.Machine

theorem Display.ext_get {d d' : Display}
    (h : ∀ px py, px < 64 → py < 32 → Display.get d px py = Display.get d' px py) : d = d' := by
  refine Vector.ext fun py hy => Vector.ext fun px hx => ?_
  have hget (e : Display) : Display.get e px py = e[py][px] := dif_pos ⟨hx, hy⟩
  rw [← hget, ← hget, h px py hx hy]

/-- The sprite is read from memory at `I`, and from nothing else. -/
theorem spriteLit_congr {s t : State} (hi : t.i = s.i) (hmem : t.mem = s.mem) : spriteLit t = spriteLit s := by
  unfold spriteLit State.byteAt State.dataBase
  rw [hi, hmem]

/-- Settles O45: the statement on one draw, O44, used twice with the same sprite and the same place. -/
theorem secondDrawRestoresTheDisplay : Obligations.SecondDrawRestoresTheDisplay := by
  intro x y n s t u hx hy hrange ht hu
  obtain ⟨_, ht', hframe, hdisp, -, -, hreg⟩ := drawXorsTheSpriteAndFlagsCollision x y n s hrange
  cases ht'.symm.trans ht
  have hi : t.i = s.i := by rw [hframe]
  have hmem : t.mem = s.mem := by rw [hframe]
  have hbase : t.dataBase = s.dataBase := congrArg BitVec.toNat hi
  obtain ⟨_, hu', -, hdisp', -, hflag, -⟩ := drawXorsTheSpriteAndFlagsCollision x y n t (hbase ▸ hrange)
  cases hu'.symm.trans hu
  rw [spriteLit_congr hi hmem, hreg x hx, hreg y hy] at hdisp' hflag
  refine ⟨Display.ext_get fun px py hpx hpy => ?_, hflag.trans ?_⟩
  · rw [hdisp' px py hpx hpy, hdisp px py hpx hpy, Bool.xor_assoc, Bool.xor_self, Bool.xor_false]
  · -- under a 1 bit of the sprite, a pixel is set after the first draw exactly when it was off before
    refine exists₂_congr fun px py =>
      and_congr_right fun hpx => and_congr_right fun hpy => and_congr_left fun hlit => ?_
    rw [hdisp px py hpx hpy, hlit, Bool.xor_true, Bool.not_eq_true']

end Sys2Proof.Machine
end

section
/-! PROOFS. Sequences of moves of the outside world: ticks alone, and any moves on a HALTED core (60_exceptions.md R209,
R210, R212; 92_eei_decisions.md D12). -/

namespace Sys2Proof.Machine

/-- A sequence of moves answers a state when its first move does and the others do from there. -/
theorem applyMoves_cons_eq_next {m : HostMove} {ms : List HostMove} {s u : State} :
    applyMoves (m :: ms) s = .next u ↔ ∃ t, applyMove m s = .next t ∧ applyMoves ms t = .next u := by
  rw [applyMoves]
  cases applyMove m s <;> simp

/-! ### Ticks -/

theorem applyMoves_replicate_tick (n : Nat) (s : State) :
    applyMoves (List.replicate n .tick) s = .next (s.ticks n) := by
  induction n generalizing s with
  | zero => rfl
  | succ n ih => exact applyMoves_cons_eq_next.2 ⟨s.tick, rfl, ih s.tick⟩

/-- A timer holds at most 255, so 255 ticks bring it to 0. -/
theorem timerAfter_eq_zero {n : Nat} (hn : 255 ≤ n) (b : Byte) : timerAfter n b = 0 := by
  have hlt : b.toNat < 256 := b.isLt
  exact BitVec.eq_of_toNat_eq ((timerAfter_toNat n b).trans (Nat.sub_eq_zero_of_le (by omega)))

/-- Settles O21: the laws of one timer, for the one tick and for the sequence of ticks. -/
theorem ticksCountBothTimersDownToZero : Obligations.TicksCountBothTimersDownToZero := by
  refine fun s => ⟨⟨s.tick, rfl, rfl, tickTimer_toNat s.dt, tickTimer_toNat s.st⟩, fun n => ?_⟩
  exact ⟨s.ticks n, applyMoves_replicate_tick n s, rfl, rfl, timerAfter_toNat n s.dt, timerAfter_toNat n s.st,
    fun hn => ⟨timerAfter_eq_zero hn s.dt, timerAfter_eq_zero hn s.st⟩⟩

/-! ### A HALTED core -/

/-- The second state is the first but for the timers and the sampled inputs: what a move may change on a HALTED core. -/
def State.EqButTimersAndInputs (s t : State) : Prop :=
  t = { s with dt := t.dt, st := t.st, keys := t.keys, rnd := t.rnd }

namespace State.EqButTimersAndInputs

variable {s t u : State}

theorem refl (s : State) : s.EqButTimersAndInputs s := rfl

theorem trans (hst : s.EqButTimersAndInputs t) (htu : t.EqButTimersAndInputs u) : s.EqButTimersAndInputs u :=
  Eq.trans htu (by rw [hst])

theorem run_eq (h : s.EqButTimersAndInputs t) : t.run = s.run := by rw [h]

end State.EqButTimersAndInputs

/-- On a HALTED core a tick changes the timers, a cycle the sampled inputs, and there is no other move but reset. -/
theorem eqButTimersAndInputs_of_applyMove {m : HostMove} {s t : State} (hrun : s.run = .halted)
    (hm : ∀ image, HostMove.reset image ≠ m) (h : applyMove m s = .next t) : s.EqButTimersAndInputs t := by
  cases m with
  | reset image => exact absurd rfl (hm image)
  | tick => cases h; rfl
  | cycle keys rnd => cases (coreCycle_halted (s := s.sample keys rnd) hrun).symm.trans h; rfl

/-- Settles O15: by induction on the moves; each leaves the core HALTED for the next. -/
theorem haltedIsLeftOnlyByReset : Obligations.HaltedIsLeftOnlyByReset := by
  intro ms
  induction ms with
  | nil =>
    intro s t _ _ h
    cases h
    exact State.EqButTimersAndInputs.refl s
  | cons m ms ih =>
    intro s u hrun hms h
    obtain ⟨t, hmove, hrest⟩ := applyMoves_cons_eq_next.1 h
    have hst : s.EqButTimersAndInputs t :=
      eqButTimersAndInputs_of_applyMove hrun (fun image => List.ne_of_not_mem_cons (hms image)) hmove
    have htu : t.EqButTimersAndInputs u :=
      ih t u (hst.run_eq.trans hrun) (fun image => List.not_mem_of_not_mem_cons (hms image)) hrest
    exact hst.trans htu

end Sys2Proof.Machine
end
